-- ==== Sys2Proof/Word.lean ====
section
/-! DEFINITION. The word types of the block: the byte, the two register widths, and the two formats a code
word can have (spec/30_encoding.md, section 1). -/

namespace Sys2Proof

/-- A byte is 8 bits (R9): an element of SYM or OUT. -/
abbrev Byte := BitVec 8

/-- The width of `CHANNELS` and `BITS` (R20). -/
abbrev Half := BitVec 16

/-- The width of the other host-visible registers (R20). -/
abbrev Word := BitVec 32

/-- A code word as the block receives it: one element of SYM (format `SYM8`, R80) or one host write to
`CTRL` (format `CMD`, R82). -/
inductive CodeWord where
  | sym8 (code : Byte)
  | cmd (value : Word)
  deriving DecidableEq, Repr

end Sys2Proof
end

