-- ==== Sys2Proof/Syntax.lean ====
section
/-! DEFINITION. The instructions: the twelve keypad symbols and the one host command (R5, R90). No instruction has an
operand in its own word (R80, R82). -/

namespace Sys2Proof

/-- One constructor per row of spec/opcode_table.json, in the table's order. -/
inductive Instr where
  /-- Symbol `'0'` (R110). -/
  | key0
  /-- Symbol `'1'` (R111). -/
  | key1
  /-- Symbol `'2'` (R112). -/
  | key2
  /-- Symbol `'3'` (R113). -/
  | key3
  /-- Symbol `'4'` (R114). -/
  | key4
  /-- Symbol `'5'` (R115). -/
  | key5
  /-- Symbol `'6'` (R116). -/
  | key6
  /-- Symbol `'7'` (R117). -/
  | key7
  /-- Symbol `'8'` (R118). -/
  | key8
  /-- Symbol `'9'` (R119). -/
  | key9
  /-- Symbol `'*'` (R120). -/
  | keyStar
  /-- Symbol `'#'` (R121). -/
  | keyHash
  /-- The host command START (R220). -/
  | start
  deriving DecidableEq, Repr

end Sys2Proof
end

