-- ==== Sys2Proof/WellFormed.lean ====
section
/-! DEFINITION. Which terms of the syntax the hardware has. An instruction has no operand, so each one is well formed as it stands; a
sequence of instructions is a program for SYM only if each is a keypad symbol and it fits its bounds. -/

namespace Sys2Proof

/-- A keypad symbol, the only kind of instruction an element of SYM can hold (R34, R80). START is a register
write and never an element of SYM (R82). -/
def Instr.isSymbol : Instr → Bool
  | .key0 => true
  | .key1 => true
  | .key2 => true
  | .key3 => true
  | .key4 => true
  | .key5 => true
  | .key6 => true
  | .key7 => true
  | .key8 => true
  | .key9 => true
  | .keyStar => true
  | .keyHash => true
  | .start => false

/-- Every instruction is well formed: "there is no other field, no operand, no immediate, no mode" (R80), and START "takes
no operand in its own word" (R82). There is therefore no ill-formed instruction term. -/
def Instr.wellFormed : Instr → Bool
  | .key0 => true
  | .key1 => true
  | .key2 => true
  | .key3 => true
  | .key4 => true
  | .key5 => true
  | .key6 => true
  | .key7 => true
  | .key8 => true
  | .key9 => true
  | .keyStar => true
  | .keyHash => true
  | .start => true

/-- A program is a sequence of keypad symbols (R5, R93), no longer than SYM is deep (`depth`, premise P2 of R276)
and no longer than the 32-bit `SYM_COUNT` can say (R28). -/
def programWellFormed (depth : Nat) (prog : List Instr) : Bool :=
  prog.all Instr.isSymbol && decide (prog.length ≤ depth) && decide (prog.length < 2 ^ 32)

end Sys2Proof
end

