-- ==== Sys2Proof/Decode.lean ====
section
/-! DEFINITION. Decoding and encoding (spec/30_encoding.md). Decoding is total: each code word selects one
instruction or is rejected by name (R94). -/

namespace Sys2Proof

/-- Why a code word selects no instruction. -/
inductive DecodeReject where
  /-- The code is none of the twelve symbol codes (R91). -/
  | illegalSymbol (code : Byte)
  /-- A `CTRL` write with bit 0 clear is no command (R82, R92). -/
  | noCommand (value : Word)
  deriving DecidableEq, Repr

/-- Decode one element of SYM: all 8 bits take part in the match (R81, R90). -/
def decodeSym (c : Byte) : Except DecodeReject Instr :=
  match c.toNat with
  | 0x30 => .ok .key0
  | 0x31 => .ok .key1
  | 0x32 => .ok .key2
  | 0x33 => .ok .key3
  | 0x34 => .ok .key4
  | 0x35 => .ok .key5
  | 0x36 => .ok .key6
  | 0x37 => .ok .key7
  | 0x38 => .ok .key8
  | 0x39 => .ok .key9
  | 0x2A => .ok .keyStar
  | 0x23 => .ok .keyHash
  | _ => .error (.illegalSymbol c)

/-- Decode a host write to `CTRL`: START is selected by bit 0, and bits 31:1 are ignored (R21, R82). -/
def decodeCmd (v : Word) : Except DecodeReject Instr :=
  if v.getLsbD 0 then .ok .start else .error (.noCommand v)

/-- Decode a code word of either format. -/
def decode : CodeWord → Except DecodeReject Instr
  | .sym8 c => decodeSym c
  | .cmd v => decodeCmd v

/-- `valid(c)`: true when `c` is one of the twelve symbol codes (R13, R81). -/
def validCode (c : Byte) : Bool :=
  match decodeSym c with
  | .ok _ => true
  | .error _ => false

/-- The code word of an instruction (R81, R82). START is encoded with its reserved bits 0. -/
def encode : Instr → CodeWord
  | .key0 => .sym8 0x30
  | .key1 => .sym8 0x31
  | .key2 => .sym8 0x32
  | .key3 => .sym8 0x33
  | .key4 => .sym8 0x34
  | .key5 => .sym8 0x35
  | .key6 => .sym8 0x36
  | .key7 => .sym8 0x37
  | .key8 => .sym8 0x38
  | .key9 => .sym8 0x39
  | .keyStar => .sym8 0x2A
  | .keyHash => .sym8 0x23
  | .start => .cmd 1

/-- The byte list of a program, one code per symbol in reading order (R93). An instruction that is no symbol has
no byte; a well-formed program holds none. -/
def encodeProgram : List Instr → List Byte
  | [] => []
  | i :: rest =>
    match encode i with
    | .sym8 c => c :: encodeProgram rest
    | .cmd _ => encodeProgram rest

/-- The decoder's answer on an instruction whose bits are `w`, numbered as spec/opcode_table.json numbers them: an 8-bit row
is an element of SYM, a 32-bit row a write to `CTRL`. No row has another width. -/
def decodeTableWord (nbits w : Nat) : Option Instr :=
  if nbits = 8 then (decodeSym (BitVec.ofNat 8 w)).toOption
  else if nbits = 32 then (decodeCmd (BitVec.ofNat 32 w)).toOption
  else none

end Sys2Proof
end

