-- ==== Sys2Proof/Machine/Memory.lean ====
section
/-! DEFINITION. A byte memory (SYM, OUT) as plain data in one canonical form, and its operations. A wider access is a run of one-byte accesses
at rising addresses, which fixes the order of the bytes once (R51, R54). -/

namespace Sys2Proof.Machine

/-- The bytes that something has written, by address. An address that is not listed reads as no byte here; what an agent sees
there is said where it reads (`symAt`, `outSeenByHost`). -/
abbrev Memory := List Host.Cell

/-- The canonical form: addresses strictly rise. No entry can equal what an unlisted address reads as, since that is no byte. -/
abbrev Memory.wf (m : Memory) : Prop := m.Pairwise (fun x y => x.1 < y.1)

/-- The byte at an address, if one has been written there. -/
def Memory.read : Memory → Nat → Option (BitVec 8)
  | [], _ => none
  | (c, v) :: rest, a => if a = c then some v else Memory.read rest a

/-- Store one byte, keeping the addresses in order. -/
def Memory.write : Memory → Nat → BitVec 8 → Memory
  | [], a, b => [(a, b)]
  | (c, v) :: rest, a, b =>
    if a < c then (a, b) :: (c, v) :: rest
    else if a = c then (a, b) :: rest
    else (c, v) :: Memory.write rest a b

/-- `MemWrite(SPACE, a, len(bs), bs)`: the list at consecutive element addresses from `a` (R13). -/
def Memory.writeList : Memory → Nat → List (BitVec 8) → Memory
  | m, _, [] => m
  | m, a, b :: bs => Memory.writeList (Memory.write m a b) (a + 1) bs

end Sys2Proof.Machine
end

