-- ==== Sys2Proof/Machine/Rom.lean ====
section
/-! DEFINITION. ROM, the tone-pair table (R33, R110 to R123). -/

namespace Sys2Proof.Machine

/-- One row of ROM: the ordered pair `(lowFreq, highFreq)` in Hz (R33). -/
structure ToneRow where
  low : Nat
  high : Nat
  deriving DecidableEq, Repr

/-- The twelve rows in the order of the rules R110 to R121: `'0'` to `'9'`, `'*'`, `'#'`. Only the pair of `'5'` is the source's; the others are
the spec's from general knowledge (G2, log entry 19). -/
def romTable : Vector ToneRow 12 := #v[
  ⟨941, 1336⟩, ⟨697, 1209⟩, ⟨697, 1336⟩, ⟨697, 1477⟩, ⟨770, 1209⟩, ⟨770, 1336⟩,
  ⟨770, 1477⟩, ⟨852, 1209⟩, ⟨852, 1336⟩, ⟨852, 1477⟩, ⟨941, 1209⟩, ⟨941, 1477⟩]

/-- ROM as a piece of state that nothing can change: "no request, no reset and no host access changes it" (R33). The second
field says that the rows are the constant table, so no other content can be written down (log entry 7). -/
structure Rom where
  rows : Vector ToneRow 12
  isTable : rows = romTable
  deriving DecidableEq, Repr

/-- The one content ROM has. -/
def romConstant : Rom := ⟨romTable, rfl⟩

/-- ROM's row `k`: both tones of a symbol. -/
def romRow (r : Rom) (k : Fin 12) : ToneRow := r.rows[k]

end Sys2Proof.Machine
end

