-- ==== Sys2Proof/Machine/Rounding.lean ====
section
/-! DEFINITION. `round` and `clamp` of R11, once for every ordered field: the model runs them on rationals, and the rules about
real samples use the same definitions on reals. -/

namespace Sys2Proof.Machine

/-- The values of the parameter `ROUND_TIE` (R7, R11); `away` is the spec's default. -/
inductive RoundTie where
  | away
  | up
  | even
  deriving DecidableEq, Repr, Inhabited

/-- `round(v)`: the integer nearest to `v`; at a tie the parameter `ROUND_TIE` chooses between the two (R11). -/
def roundTo {K : Type} [Field K] [LinearOrder K] [FloorRing K] (t : RoundTie) (v : K) : Int :=
  let f := ⌊v⌋
  if v - f < 1 / 2 then f
  else if 1 / 2 < v - f then f + 1
  else
    match t with
    | .away => if v < 0 then f else f + 1
    | .up => f + 1
    | .even => if f % 2 = 0 then f else f + 1

/-- `clamp(v, lo, hi)` (R11). -/
def clampTo {K : Type} [LinearOrder K] (v lo hi : K) : K :=
  if v < lo then lo else if hi < v then hi else v

/-- `round(p / d)` for naturals in integer arithmetic; the argument is never negative, so `away` and `up` agree (R11, R131). -/
def roundDiv (t : RoundTie) (p d : Nat) : Nat :=
  let q := p / d
  let r := p % d
  if 2 * r < d then q
  else if d < 2 * r then q + 1
  else
    match t with
    | .away => q + 1
    | .up => q + 1
    | .even => if q % 2 = 0 then q else q + 1

end Sys2Proof.Machine
end

