-- ==== Sys2Proof/Machine/Quantizer.lean ====
section
/-! DEFINITION. The quantizer's arithmetic, unit QNT (spec/42_quantizer.md), once for every ordered field. -/

namespace Sys2Proof.Machine

/-- The scaled value before rounding: clamp first, then the multiplier by the sign of the clamped value; zero takes the second
branch (R161, R162). The product is exact (R162, decision D21). -/
def scaled {K : Type} [Field K] [LinearOrder K] (v : K) : K :=
  let c := clampTo v (-1) 1
  if c < 0 then c * 32768 else c * 32767

/-- `Q` on a number (R163). -/
def quantizeNum {K : Type} [Field K] [LinearOrder K] [FloorRing K] (t : RoundTie) (v : K) : Int :=
  roundTo t (scaled v)

/-- Zero quantizes to zero under every tie rule (R166). -/
theorem quantizeNum_zero {K : Type} [Field K] [LinearOrder K] [IsStrictOrderedRing K] [FloorRing K] (t : RoundTie) :
    quantizeNum t (0 : K) = 0 := by
  have h : clampTo (0 : K) (-1) 1 = 0 := by simp [clampTo, not_lt.mpr (zero_le_one (α := K))]
  simp [quantizeNum, scaled, roundTo, h]

end Sys2Proof.Machine
end

