-- ==== Sys2Proof/Machine/Tone.lean ====
section
/-! DEFINITION. The ideal tone sample (R133, R134): the exact real formula that an implementation's evaluation is measured
against. Nothing that the machine runs evaluates it; it stands in the bound of R135. -/

namespace Sys2Proof.Machine

/-- `s_j = 0.5 × (sin(2π × lo × j / fs) + sin(2π × hi × j / fs))`, an exact real number (R134). -/
noncomputable def idealTone (lo hi j fs : Nat) : ℝ :=
  1 / 2 * (Real.sin (2 * Real.pi * lo * j / fs) + Real.sin (2 * Real.pi * hi * j / fs))

/-- Both sines lie in `[-1, 1]`, so no ideal sample leaves that range (R142). -/
theorem abs_idealTone_le_one (lo hi j fs : Nat) : |idealTone lo hi j fs| ≤ 1 := by
  have h₁ := abs_le.mp (Real.abs_sin_le_one (2 * Real.pi * lo * j / fs))
  have h₂ := abs_le.mp (Real.abs_sin_le_one (2 * Real.pi * hi * j / fs))
  unfold idealTone
  rw [abs_le]
  constructor <;> linarith [h₁.1, h₁.2, h₂.1, h₂.2]

end Sys2Proof.Machine
end

