-- ==== Sys2Proof/Config.lean ====
section
/-! DEFINITION. The named parameters of R7 and the free values. What is plain data stands in `Config.Params`, what speaks of real numbers in
`Config.ToneUnit`; the block's own values, and the free values, are constants without a body, so that no proof can see what they are. -/

namespace Sys2Proof

/-! Parameters that are plain data. -/

/-- The parameters a step computes with (R7). A machine holds its own (`State.params`), so a statement can speak of each value, the spec's default
among them. -/
structure Config.Params where
  /-- `MAX_SYMBOLS`, any natural number (decision D4): the depth of SYM. It has no default. -/
  maxSymbols : Nat
  /-- `ROUND_TIE` (decision D8). -/
  roundTie : Machine.RoundTie := .away
  deriving DecidableEq, Repr, Inhabited

/-- The parameters the machine has at reset: any (log entries 3 and 4). -/
opaque Config.params : Config.Params

/-! Parameters that speak of real numbers. -/

/-- `SAMPLE_FMT` (R7, R12, decision D9): the numbers and infinities that a sample of the format can denote, and whether it has values that are not a
number. A negative zero denotes the number 0 (R136, R166). The spec gives it no default; the field values after `:=` are those of the model's
own `Config.idealUnit` (DESIGN CHOICE, log entry 2). -/
structure Config.SampleFmt where
  denotes : Set EReal := Set.univ
  /-- A silence sample is the number 0 (R136). -/
  zero : (0 : EReal) ∈ denotes := by trivial
  hasNan : Prop := True
  deriving Inhabited

/-- An implementation's samples: the parameters `SAMPLE_FMT`, `TONE` and `SIN_EPS`, with what R135 requires of them and nothing else. `TONE` is a
function of `lo`, `hi`, `j` and `fs` alone (item 1) whose value is a real number of the format (item 3). `code` is what QNT makes of the sample
under a tie rule: it is `Q` of the real `tone` (`codeEq`), carried here because the real number is not something a step can compute with (DESIGN CHOICE,
log entry 2). The field values after `:=` only show that such a unit exists; `Config.toneUnit` has none of them. -/
structure Config.ToneUnit where
  /-- `SAMPLE_FMT`. -/
  fmt : Config.SampleFmt := default
  /-- The number that `TONE(lo, hi, j, fs)` denotes. -/
  tone : Nat → Nat → Nat → Nat → ℝ := fun _ _ _ _ => 0
  /-- `TONE` answers a sample of the format (R135, items 1 and 3). -/
  inFormat : ∀ lo hi j fs, (tone lo hi j fs : EReal) ∈ fmt.denotes := by
    intro lo hi j fs
    trivial
  /-- `SIN_EPS`. -/
  sinEps : ℝ := 1
  /-- `|TONE(lo, hi, j, fs) - s_j| <= SIN_EPS` (R135, item 2). -/
  accurate : ∀ lo hi j fs, 1 ≤ fs → |tone lo hi j fs - Machine.idealTone lo hi j fs| ≤ sinEps := by
    intro lo hi j fs _
    simpa using Machine.abs_idealTone_le_one lo hi j fs
  /-- The PCM code of the tone sample under a tie rule. -/
  code : Machine.RoundTie → Nat → Nat → Nat → Nat → Int := fun _ _ _ _ _ => 0
  /-- The code is the quantizer's rule applied to the sample (R163). -/
  codeEq : ∀ t lo hi j fs, code t lo hi j fs = Machine.quantizeNum t (tone lo hi j fs) := by
    intro t lo hi j fs
    rw [Machine.quantizeNum_zero]
  deriving Inhabited

/-- The block's own samples: any that R135 allows. `step` runs with it; what is below `step` takes the unit as an argument. -/
opaque Config.toneUnit : Config.ToneUnit

/-- The spec's defaults for `TONE` and `SIN_EPS` (R7): the exact real formula of R134 and 0, the ideal block. Its `SAMPLE_FMT`, for which the
spec has no default, is the model's choice: a format with every real number, both infinities and NaN, which has the exact samples in it (DESIGN CHOICE, log entry 2); it
enters no result (U3). A step with this unit is a definition and no program, since its codes are those of exact real numbers. -/
noncomputable def Config.idealUnit : Config.ToneUnit where
  fmt := default
  tone := Machine.idealTone
  sinEps := 0
  accurate := by simp
  code t lo hi j fs := Machine.quantizeNum t (Machine.idealTone lo hi j fs)
  codeEq _ _ _ _ _ := rfl

/-! Free values. -/

/-- What an element of SYM holds that the host has not written since the last reset: any value (R34, U8). The first argument counts
resets, the second is the address (log entry 5). -/
opaque Config.symUnspecified : Nat → Nat → Byte

/-- What a host read of OUT answers where OUT holds no valid byte: any value (R36, R281, U8). The first argument counts the requests and
resets so far, the second is the address, so a repeated read answers the same value until the next request (R56; log entry 5). -/
opaque Config.outUnspecified : Nat → Nat → Byte

end Sys2Proof
end

