-- ==== Sys2Proof/Machine/Sample.lean ====
section
/-! DEFINITION. A sample on LINK (R12): plain data that denotes a real number, an infinity, or no number. -/

namespace Sys2Proof.Machine

/-- A sample. SYN writes `tone` and `num 0` only; the other values can stand on LINK only where a test bench drives it (R35,
R257). A tone sample is named by the four values that alone decide it (R135, item 1); the number it denotes is the implementation's
(log entry 2). Which of the others the implementation has is its `SAMPLE_FMT` (log entry 18). -/
inductive Sample where
  /-- The sample `TONE(lo, hi, j, fs)` (R135). -/
  | tone (lo hi j fs : Nat)
  /-- A sample that denotes a rational number, as every finite floating-point number does; both zeros of a format denote the number 0. -/
  | num (v : Rat)
  | posInf
  | negInf
  /-- Not a number (R12). -/
  | nan
  deriving DecidableEq, Repr

end Sys2Proof.Machine
end

