-- ==== Sys2Proof/Machine/State.lean ====
section
/-! DEFINITION. The state of one DDC instance with its host (R20), why a step can stop, and the state after reset (R38). -/

namespace Sys2Proof.Machine

/-- Where in a request DDC is. The spec implies it by the order of the steps (R221); no host access shows it (DEDUCED, log entry 9). -/
inductive Phase where
  /-- No request runs: `STATE` is IDLE, DONE or ERROR. -/
  | rest
  /-- The format check is next (R221, step 1). -/
  | check
  /-- The validation pass is next (R221, step 2). -/
  | validate
  /-- The generation pass: the symbol at `pc` is next (R221, step 3). -/
  | generate
  /-- ENC is next (R221, step 4). -/
  | encode
  /-- Completion is next (R221, step 5). -/
  | complete
  deriving DecidableEq, Repr

/-- One thing the host does (R227). Registers are named by number (R20), elements of SYM and OUT by address (R50). `pause` and `await` say how
the two agents take turns and are no accesses (DESIGN CHOICE, log entry 10). -/
inductive HostAction where
  /-- Write register `n`. A write to `CTRL` (`n = 0`) with bit 0 set is START. -/
  | writeReg (n : Nat) (v : Word)
  /-- Read register `n`. -/
  | readReg (n : Nat)
  /-- Write one element of SYM. -/
  | writeSym (a : Nat) (c : Byte)
  /-- Read back one element of SYM. -/
  | readSym (a : Nat)
  /-- Read one element of OUT. -/
  | readOut (a : Nat)
  /-- Assert and release the reset input (R270). -/
  | reset
  /-- The host does nothing while DDC makes one step. -/
  | pause
  /-- The host does nothing until no request runs. -/
  | await
  deriving DecidableEq, Repr

/-- The state. The registers carry the spec's names and widths (R20); `CTRL` holds nothing and so has no field (R21). The last six fields are the
model's own. -/
structure State where
  /-- `STATUS`, `x[1]` (R22). -/
  status : Word
  /-- `SAMPLE_RATE`, `x[2]`, signed (R23). -/
  sampleRate : Word
  /-- `TONE_DUR_US`, `x[3]` (R24). -/
  toneDurUs : Word
  /-- `SILENCE_DUR_US`, `x[4]` (R25). -/
  silenceDurUs : Word
  /-- `CHANNELS`, `x[5]` (R26). -/
  channels : Half
  /-- `BITS`, `x[6]` (R27). -/
  bits : Half
  /-- `SYM_COUNT`, `x[7]` (R28). -/
  symCount : Word
  /-- `OUT_LEN`, `x[8]` (R29). While BUSY no access shows it (log entry 12). -/
  outLen : Word
  /-- The symbol index, the program counter (R30, R31). -/
  pc : Nat
  /-- The sample index inside the current burst or gap (R30). -/
  j : Nat
  /-- The write pointer into LINK or OUT (R30). -/
  wp : Nat
  /-- SYM, the elements written since reset (R34). -/
  sym : Memory
  /-- LINK, the sample sequence between the units (R35). -/
  link : List Sample
  /-- OUT, the bytes written since reset (R36). -/
  out : Memory
  /-- ROM (R33). -/
  rom : Rom
  /-- Where in a request DDC is. -/
  phase : Phase
  /-- What the host does next, oldest first: host accesses take effect in the order the host issues them (R59). -/
  pending : List HostAction
  /-- What the host's reads have answered, latest first; a 16-bit register or a byte stands zero-extended. -/
  replies : List Word
  /-- How many resets there have been: it tells one reset's unspecified bytes of SYM from another's. -/
  resetCount : Nat
  /-- How many requests and resets there have been: it tells one request's unspecified bytes of OUT from another's. -/
  runCount : Nat
  /-- The parameters of this machine that are plain data (R7); no step changes them. -/
  params : Config.Params
  deriving DecidableEq, Repr

/-- Why the machine stops at an access to an element that does not exist. "A model gives the host no access to one" (R50): each is safe (DESIGN CHOICE, log entry 13). -/
inductive Fault where
  /-- A host access named a register above 8, which "names nothing" (R20). Raised by `hostWriteReg` and `hostReadReg`. Safe. -/
  | noSuchRegister (n : Nat)
  /-- A host access named an address of SYM at or above `MAX_SYMBOLS` (R34, R50). Raised by `hostWriteSym` and `hostReadSym`. Safe. -/
  | noSuchSymElement (a : Nat)
  deriving DecidableEq, Repr

/-- Why the model gives no meaning, each where the spec says to refuse. -/
inductive Refusal where
  /-- An instruction without a meaning: no arm of `exec` answers it now. Safe. -/
  | notModelled (mnemonic : String)
  /-- START with `SYM_COUNT > MAX_SYMBOLS`: outside launch premise P2 (R276, U10). Raised by `execStart`. Safe. -/
  | tooManySymbols
  /-- START with a container longer than `2^32 - 1` bytes: outside launch premise P3 (R276, U4). Raised by `execStart`. ENC on a
  LINK of so many samples, which no run reaches: the two size fields have no value (R197, N7). Raised by `encodeLink` (log entry 23). Safe. -/
  | containerTooLong
  /-- START with `TONE_DUR_US = 0`: outside launch premise P4 (R276, U5). Raised by `execStart`. Safe. -/
  | zeroToneDuration
  /-- While BUSY, a host access other than a `STATUS` read, a `CTRL` write or reset: a hazard the host must respect (R280, U7). Raised by the
  host accesses. Safe. -/
  | hostAccessWhileBusy
  /-- A write to a 16-bit register of a value it cannot hold: a register is written whole (R52), so there is no such access. Raised by
  `hostWriteReg`. Safe. -/
  | valueTooWide (n : Nat)
  /-- ENC met a sample that is not a number, on which `Q` is not defined (R168, U6). Raised by `encodeLink`; SYN produces no such sample. Safe. -/
  | nanSample
  deriving DecidableEq, Repr

/-- What a step answers. -/
abbrev Outcome := Host.Outcome State Fault Refusal

/-- The machine right after reset (R38, R270). `pc`, `j` and `wp` have no reset value in the spec and are 0 here (DESIGN CHOICE, log entry 1); nothing of SYM and OUT is
listed, since their elements are unspecified; the host has nothing to do. The parameters are the machine's own, any (log
entries 3 and 4). -/
def State.reset : State where
  status := 0
  sampleRate := 44100
  toneDurUs := 50000
  silenceDurUs := 50000
  channels := 1
  bits := 16
  symCount := 0
  outLen := 0
  pc := 0
  j := 0
  wp := 0
  sym := []
  link := []
  out := []
  rom := romConstant
  phase := .rest
  pending := []
  replies := []
  resetCount := 0
  runCount := 0
  params := Config.params

end Sys2Proof.Machine
end

