-- ==== Sys2Proof/Machine/Flags.lean ====
section
/-! DEFINITION. The status flags, all that DDC has (R32): the fields `STATE` and `ERR` of `STATUS` (R22). -/

namespace Sys2Proof.Machine

/-- The values of `STATUS.STATE` (R22). -/
inductive RunState where
  | idle
  | busy
  | done
  | error
  deriving DecidableEq, Repr

/-- The two errors (R240). -/
inductive ErrorKind where
  | invalidSymbol
  | invalidFormat
  deriving DecidableEq, Repr

/-- The code of a run state in `STATUS` bits 1:0 (R22). -/
def runStateCode : RunState → BitVec 2
  | .idle => 0
  | .busy => 1
  | .done => 2
  | .error => 3

/-- The code of an error in `STATUS` bits 3:2; no error is 0 (R22, R241, R242). -/
def errorCode : ErrorKind → BitVec 2
  | .invalidSymbol => 1
  | .invalidFormat => 2

/-- The field `STATE` of a status word. -/
def stateField (w : Word) : BitVec 2 := w.extractLsb' 0 2

/-- The field `ERR` of a status word. -/
def errField (w : Word) : BitVec 2 := w.extractLsb' 2 2

/-- The reserved bits 31:4 of a status word (R22). -/
def reservedField (w : Word) : BitVec 28 := w.extractLsb' 4 28

/-- The run state a status word says. -/
def runStateOf (w : Word) : RunState :=
  match (stateField w).toNat with
  | 0 => .idle
  | 1 => .busy
  | 2 => .done
  | _ => .error

/-- A status word with its two fields written; the reserved bits stay as they are, 0 in every run (log entry 22). -/
def withStatus (w : Word) (st : RunState) (err : BitVec 2) : Word :=
  reservedField w ++ err ++ runStateCode st

/-- The run state of the machine. -/
def State.runState (s : State) : RunState := runStateOf s.status

/-- `STATUS.STATE = BUSY`: a request is running. -/
def State.busy (s : State) : Bool := s.runState == .busy

end Sys2Proof.Machine
end

