-- ==== Sys2Proof/Machine/Operands.lean ====
section
/-! DEFINITION. The implicit operands of a request: no instruction names an operand, and what a request works on is read from the registers and from SYM
(R14, R82, R131, R132). -/

namespace Sys2Proof.Machine

/-- `fs`, the sample rate as a natural number; after the format check it is the register's signed value (R14, R231). -/
def State.fs (s : State) : Nat := s.sampleRate.toInt.toNat

/-- `N`, the symbol count (R14). -/
def State.symbolCount (s : State) : Nat := s.symCount.toNat

/-- `round(fs × D / 1000000)` for a duration of `durUs` microseconds (R131, R132). -/
def samplesOf (t : RoundTie) (fs durUs : Nat) : Nat := roundDiv t (fs * durUs) 1000000

/-- `nsig`, the tone length in samples (R131). -/
def State.nsig (s : State) : Nat := samplesOf s.params.roundTie s.fs s.toneDurUs.toNat

/-- `nsil`, the silence length in samples (R132). -/
def State.nsil (s : State) : Nat := samplesOf s.params.roundTie s.fs s.silenceDurUs.toNat

/-- `B = nsig + nsil`, the block length in samples (R14). -/
def State.blockLen (s : State) : Nat := s.nsig + s.nsil

/-- `M = N × B`, the sample count of the request (R14, R140). -/
def State.sampleCount (s : State) : Nat := s.symbolCount * s.blockLen

/-- `L = 44 + 2 × M`, the container length in bytes (R14, R197). -/
def containerLength (m : Nat) : Nat := 44 + 2 * m

/-- `format_ok` (R181): a positive sample rate, one channel, 16 bits. -/
def State.formatOk (s : State) : Bool :=
  decide (1 ≤ s.sampleRate.toInt) && decide (s.channels = 1) && decide (s.bits = 16)

/-- `MemRead(SYM, a, 1)[0]`: what the host wrote there, or the unspecified byte the element has held since reset (R13, R34). -/
def State.symAt (s : State) (a : Nat) : Byte :=
  (s.sym.read a).getD (Config.symUnspecified s.resetCount a)

/-- The sequence `SYM[0], ..., SYM[n-1]` (R28). -/
def State.symbols (s : State) (n : Nat) : List Byte := (List.range n).map s.symAt

/-- What the validation pass finds: each symbol of the sequence is one of the twelve (R138). -/
def State.allValid (s : State) : Bool := (s.symbols s.symbolCount).all validCode

end Sys2Proof.Machine
end

