-- ==== Sys2Proof/Machine/Encoder.lean ====
section
/-! DEFINITION. Units QNT and ENC: samples to PCM codes, and the container's bytes (spec/42_quantizer.md, spec/43_container_encoder.md). -/

namespace Sys2Proof.Machine

/-- `u16le` (R10): the low byte first. Outside R10's range of values it takes them mod `2^16` (DESIGN CHOICE, log entry 23). -/
def u16le (v : Nat) : List Byte := [BitVec.ofNat 8 (v % 256), BitVec.ofNat 8 (v / 256 % 256)]

/-- `u32le` (R10): the low byte first. R10 gives it for values below `2^32` only; above, these are the bytes of the value mod `2^32`, the model's choice (DESIGN CHOICE, log
entry 23). -/
def u32le (v : Nat) : List Byte :=
  [BitVec.ofNat 8 (v % 256), BitVec.ofNat 8 (v / 2 ^ 8 % 256), BitVec.ofNat 8 (v / 2 ^ 16 % 256), BitVec.ofNat 8 (v / 2 ^ 24 % 256)]

/-- `i16le(q) = u16le(q mod 2^16)` (R10). -/
def i16le (q : Int) : List Byte := u16le (q % 65536).toNat

/-- `Q` on a sample (R163), under the parameters `TONE` and `ROUND_TIE`. An infinity clamps to 1 or -1 (R161); NaN has no code (R168). -/
def quantize (U : Config.ToneUnit) (t : RoundTie) : Sample → Option Int
  | .tone lo hi j fs => some (U.code t lo hi j fs)
  | .num v => some (quantizeNum t v)
  | .posInf => some (quantizeNum t (1 : Rat))
  | .negInf => some (quantizeNum t (-1 : Rat))
  | .nan => none

/-- The two bytes of one sample, format `FRAME16` (R87, R164). -/
def frame (U : Config.ToneUnit) (t : RoundTie) (x : Sample) : Option (List Byte) := (quantize U t x).map i16le

/-- The data section: the frames of all samples in order (R195); none if a sample is not a number. -/
def dataSection (U : Config.ToneUnit) (t : RoundTie) : List Sample → Option (List Byte)
  | [] => some []
  | x :: xs =>
    match frame U t x, dataSection U t xs with
    | some b, some rest => some (b ++ rest)
    | _, _ => none

/-- The tag `"RIFF"` (R88, R182). -/
def tagRiff : List Byte := [0x52, 0x49, 0x46, 0x46]

/-- The tag `"WAVE"` (R88, R184). -/
def tagWave : List Byte := [0x57, 0x41, 0x56, 0x45]

/-- The tag `"fmt "` with its trailing space (R88, R185). -/
def tagFmt : List Byte := [0x66, 0x6D, 0x74, 0x20]

/-- The tag `"data"` (R88, R193). -/
def tagData : List Byte := [0x64, 0x61, 0x74, 0x61]

/-- `HDR44`, field by field in the order R196 emits them (R86, R182 to R194). For more samples than R197 allows its two size fields are taken mod `2^32`, which the spec leaves
open (N7, U4; DESIGN CHOICE, log entry 23): ENC refuses such a LINK. -/
def header (fs ch bits m : Nat) : List Byte :=
  tagRiff ++ u32le (36 + 2 * m) ++ tagWave ++ tagFmt ++ u32le 16 ++ u16le 1 ++ u16le ch ++ u32le fs ++
    u32le (fs * ch * 2) ++ u16le (ch * 2) ++ u16le bits ++ tagData ++ u32le (m * ch * 2)

/-- The container of a sample sequence: the header, then the data section, and nothing else (R84, R196). It is the
spec's where the samples are at most 2147483625 (R197) and the format is one that R181 accepts (DESIGN CHOICE elsewhere, log entry 23). -/
def container (U : Config.ToneUnit) (t : RoundTie) (fs ch bits : Nat) (xs : List Sample) : Option (List Byte) :=
  (dataSection U t xs).map fun d => header fs ch bits xs.length ++ d

end Sys2Proof.Machine
end

