-- ==== Sys2Proof/Machine/Synthesizer.lean ====
section
/-! DEFINITION. Unit SYN, the signal synthesizer (spec/41_synthesizer.md). -/

namespace Sys2Proof.Machine

/-- The tone burst: `nsig` samples, `j` from 0 (R133, R135). -/
def toneBurst (row : ToneRow) (fs nsig : Nat) : List Sample :=
  (List.range nsig).map fun j => .tone row.low row.high j fs

/-- The silence gap: `nsil` samples, each the number 0 (R136). -/
def silenceGap (nsil : Nat) : List Sample := List.replicate nsil (.num 0)

/-- `BLOCK(lo, hi)`: the burst first, the gap second (R137). -/
def block (row : ToneRow) (fs nsig nsil : Nat) : List Sample :=
  toneBurst row fs nsig ++ silenceGap nsil

/-- The last value the loop index `j` takes in a block; a block without samples leaves it (R139; DEDUCED, log entry 8). -/
def lastIndex (nsig nsil old : Nat) : Nat :=
  if 0 < nsil then nsil - 1 else if 0 < nsig then nsig - 1 else old

/-- What every symbol does (R110 to R121, R139): it appends the block of ROM's row `k` to LINK and steps `pc` to the next symbol; `wp`
counts the samples written. It has no other effect. -/
def State.playRow (s : State) (k : Fin 12) : State :=
  { s with
    link := s.link ++ block (romRow s.rom k) s.fs s.nsig s.nsil
    wp := s.wp + s.blockLen
    j := lastIndex s.nsig s.nsil s.j
    pc := s.pc + 1 }

end Sys2Proof.Machine
end

