-- ==== Sys2Proof/Machine/Ops.lean ====
section
/-! DEFINITION. The named operations over the state: the steps of a request, the errors, the registers and the host's views. -/

namespace Sys2Proof.Machine

/-! Raising an error, the block's only kind of exception. -/

/-- `raise E` (R245): LINK emptied, `OUT_LEN` 0, `ERR` the error's code, `STATE` ERROR, and the request ends. Nothing else changes: `pc`, `j` and `wp` are saved
nowhere and control goes nowhere. There is no return from an error (R246): the next START or reset clears it. -/
def State.raiseError (s : State) (e : ErrorKind) : State :=
  { s with link := [], outLen := 0, status := withStatus s.status .error (errorCode e), phase := .rest }

/-! The steps of a request. -/

/-- START's own writes (R220): `STATE` BUSY, `ERR` 0, LINK empty; the format check is next. From here OUT holds no valid byte, so the count that names
unspecified bytes of OUT moves on. -/
def State.launch (s : State) : State :=
  { s with status := withStatus s.status .busy 0, link := [], phase := .check, runCount := s.runCount + 1 }

/-- The format check has passed; the validation pass is next (R221). -/
def State.beginValidate (s : State) : State := { s with phase := .validate }

/-- The start of the generation pass: `wp <- 0; pc <- 0` (R139). -/
def State.beginGenerate (s : State) : State := { s with wp := 0, pc := 0, phase := .generate }

/-- The generation pass has ended; ENC is next, with `wp <- 0` (R196). -/
def State.beginEncode (s : State) : State := { s with wp := 0, phase := .encode }

/-- ENC's writes: the container from address 0 of OUT; `wp` counts the bytes written (R196). -/
def State.writeContainer (s : State) (bytes : List Byte) : State :=
  { s with out := s.out.writeList 0 bytes, wp := bytes.length, phase := .complete }

/-- ENC, whole (R196): the container of LINK under the configuration. It is refused where LINK has more samples than the size fields can count, since the spec says not to
model a wrap-around (R197, U4; log entry 23), and where a sample is not a number (log entry 20). -/
def State.encodeLink (s : State) (U : Config.ToneUnit) : Outcome :=
  if 2 ^ 32 - 1 < containerLength s.link.length then .refused .containerTooLong
  else
    match container U s.params.roundTie s.fs s.channels.toNat s.bits.toNat s.link with
    | some bytes => .next (s.writeContainer bytes)
    | none => .refused .nanSample

/-- Completion (R224): `OUT_LEN` is the container's length, LINK empty, `ERR` 0, `STATE` DONE. -/
def State.finish (s : State) : State :=
  { s with
    outLen := BitVec.ofNat 32 (containerLength s.link.length)
    link := []
    status := withStatus s.status .done 0
    phase := .rest }

/-- The launch premises of R276 that a START can break, in the order P2, P4, P3: outside them the spec gives no result. P3 is asked only if the format
check passes, since "if the format check fails the request ends in ERROR whether or not P3 holds" (DEDUCED, log entry 6). -/
def State.launchRefusal (s : State) : Option Refusal :=
  if s.params.maxSymbols < s.symbolCount then some .tooManySymbols
  else if s.toneDurUs = 0 then some .zeroToneDuration
  else if s.formatOk && decide (2 ^ 32 - 1 < containerLength s.sampleCount) then some .containerTooLong
  else none

/-! Host-visible registers (R20 to R29). -/

/-- `x[n]` as a host read answers it, for `n` up to 8: `CTRL` reads 0 (R21), a 16-bit register is zero-extended (log entry 15). -/
def State.regValue (s : State) (n : Nat) : Word :=
  match n with
  | 1 => s.status
  | 2 => s.sampleRate
  | 3 => s.toneDurUs
  | 4 => s.silenceDurUs
  | 5 => s.channels.setWidth 32
  | 6 => s.bits.setWidth 32
  | 7 => s.symCount
  | 8 => s.outLen
  | _ => 0

/-- `x[n] <- v` by the host, for `n` from 1 to 8: each read-write register holds what is written, and a write to a read-only register (1, 8) changes no
state (R20, R23 to R28). -/
def State.setReg (s : State) (n : Nat) (v : Word) : State :=
  match n with
  | 2 => { s with sampleRate := v }
  | 3 => { s with toneDurUs := v }
  | 4 => { s with silenceDurUs := v }
  | 5 => { s with channels := v.setWidth 16 }
  | 6 => { s with bits := v.setWidth 16 }
  | 7 => { s with symCount := v }
  | _ => s

/-- A value that register `n` can hold: `CHANNELS` and `BITS` have 16 bits (R20). -/
def fitsReg (n : Nat) (v : Word) : Bool :=
  if n = 5 ∨ n = 6 then decide (v.toNat < 2 ^ 16) else true

/-! The host's views and what a host access leaves. -/

/-- The byte a host read of `OUT[a]` answers: the container's byte in state DONE below `OUT_LEN`, else an unspecified value (R36, R281, U8; log entry 5). -/
def State.outSeenByHost (s : State) (a : Nat) : Byte :=
  if s.runState = .done ∧ a < s.outLen.toNat then
    (s.out.read a).getD (Config.outUnspecified s.runCount a)
  else Config.outUnspecified s.runCount a

/-- The value of a `u16` field at offset `a` of the container (R89). -/
def State.outU16 (s : State) (a : Nat) : Nat :=
  (s.outSeenByHost a).toNat + 2 ^ 8 * (s.outSeenByHost (a + 1)).toNat

/-- The value of a `u32` field at offset `a` of the container (R89). -/
def State.outU32 (s : State) (a : Nat) : Nat :=
  (s.outSeenByHost a).toNat + 2 ^ 8 * (s.outSeenByHost (a + 1)).toNat + 2 ^ 16 * (s.outSeenByHost (a + 2)).toNat +
    2 ^ 24 * (s.outSeenByHost (a + 3)).toNat

/-- The value of a sample at offset `a` of the container, as a signed 16-bit integer (R89). -/
def State.outSample (s : State) (a : Nat) : Int :=
  if s.outU16 a < 32768 then s.outU16 a else (s.outU16 a : Int) - 65536

/-- A host read has been answered. It changes nothing else (R56). -/
def State.reply (s : State) (v : Word) : State := { s with replies := v :: s.replies }

/-- The host's own list of what it does next. -/
def State.setPending (s : State) (p : List HostAction) : State := { s with pending := p }

/-- A host write of one element of SYM (R34). -/
def State.setSym (s : State) (a : Nat) (c : Byte) : State := { s with sym := s.sym.write a c }

/-- Reset (R270; log entry 17): every element of DDC's state takes its reset value, in any state. What is the host's stays, the
parameters too, and SYM and OUT hold new unspecified bytes. -/
def State.resetAll (s : State) : State :=
  { State.reset with
    pending := s.pending
    replies := s.replies
    resetCount := s.resetCount + 1
    runCount := s.runCount + 1
    params := s.params }

/-- A symbol stored where the next step fetches one: a request is in its generation pass and `SYM[pc]` holds the code. `SYM_COUNT` grows to take the symbol in;
an index that no 32-bit count can reach is moved to 0. -/
def State.placeSymbol (s : State) (c : Byte) : State :=
  let p := if s.pc < 2 ^ 32 - 1 then s.pc else 0
  { s with
    pending := []
    status := withStatus s.status .busy 0
    phase := .generate
    pc := p
    sym := s.sym.write p c
    symCount := if p < s.symCount.toNat then s.symCount else BitVec.ofNat 32 (p + 1) }

/-- A CTRL write set before all else the host does next. -/
def State.placeCommand (s : State) (v : Word) : State := { s with pending := .writeReg 0 v :: s.pending }

end Sys2Proof.Machine
end

