-- ==== Sys2Proof/Machine/Command.lean ====
section
/-! DEFINITION. The meaning of the one host command, START (R220). -/

namespace Sys2Proof.Machine

/-- START. While BUSY it is ignored and queues nothing (R220). Otherwise the launch premises are asked (R276), outside which the spec gives no result, and the request
begins: BUSY is shown, and DDC's next steps are the request's (`ddcStep`, R222). -/
def execStart (s : State) : Outcome :=
  if s.busy then .next s
  else
    match s.launchRefusal with
    | some r => .refused r
    | none => .next s.launch

end Sys2Proof.Machine
end

