-- ==== Sys2Proof/Machine/Symbols.lean ====
section
/-! DEFINITION. The meanings of the twelve keypad symbols (spec/40_symbols.md). Each appends the block of its own row of ROM to LINK and
steps `pc`; none has an operand, a flag or an exception. -/

namespace Sys2Proof.Machine

/-- Symbol `'0'`: 941 and 1336 Hz (R110). -/
def execKey0 (s : State) : Outcome := .next (s.playRow 0)

/-- Symbol `'1'`: 697 and 1209 Hz (R111). -/
def execKey1 (s : State) : Outcome := .next (s.playRow 1)

/-- Symbol `'2'`: 697 and 1336 Hz (R112). -/
def execKey2 (s : State) : Outcome := .next (s.playRow 2)

/-- Symbol `'3'`: 697 and 1477 Hz (R113). -/
def execKey3 (s : State) : Outcome := .next (s.playRow 3)

/-- Symbol `'4'`: 770 and 1209 Hz (R114). -/
def execKey4 (s : State) : Outcome := .next (s.playRow 4)

/-- Symbol `'5'`: 770 and 1336 Hz (R115). -/
def execKey5 (s : State) : Outcome := .next (s.playRow 5)

/-- Symbol `'6'`: 770 and 1477 Hz (R116). -/
def execKey6 (s : State) : Outcome := .next (s.playRow 6)

/-- Symbol `'7'`: 852 and 1209 Hz (R117). -/
def execKey7 (s : State) : Outcome := .next (s.playRow 7)

/-- Symbol `'8'`: 852 and 1336 Hz (R118). -/
def execKey8 (s : State) : Outcome := .next (s.playRow 8)

/-- Symbol `'9'`: 852 and 1477 Hz (R119). -/
def execKey9 (s : State) : Outcome := .next (s.playRow 9)

/-- Symbol `'*'`: 941 and 1209 Hz (R120). -/
def execKeyStar (s : State) : Outcome := .next (s.playRow 10)

/-- Symbol `'#'`: 941 and 1477 Hz (R121). -/
def execKeyHash (s : State) : Outcome := .next (s.playRow 11)

/-- ROM's row of an instruction; START has none. -/
def toneRowOf : Instr → Option (Fin 12)
  | .key0 => some 0
  | .key1 => some 1
  | .key2 => some 2
  | .key3 => some 3
  | .key4 => some 4
  | .key5 => some 5
  | .key6 => some 6
  | .key7 => some 7
  | .key8 => some 8
  | .key9 => some 9
  | .keyStar => some 10
  | .keyHash => some 11
  | .start => none

/-- `low(c)` and `high(c)` (R123): the pair of the symbol with code `c`; a code that is not valid has none. -/
def tonePair (c : Byte) : Option ToneRow :=
  match decodeSym c with
  | .ok i => (toneRowOf i).map fun k => romTable[k]
  | .error _ => none

end Sys2Proof.Machine
end

