-- ==== Sys2Proof/Machine/Sequencer.lean ====
section
/-! DEFINITION. DDC's own next step: the request of R222, one step of R221 at a time, and one symbol at a time in the generation pass. -/

namespace Sys2Proof.Machine

/-- Fetch the symbol at `pc` and run it (R139, R234). After the validation pass the code is always valid; a state in which it is not answers as R138 does for an
illegal symbol (DESIGN CHOICE, log entry 16). -/
def fetchAndRun (s : State) : Outcome :=
  match decodeSym (s.symAt s.pc) with
  | .ok i => exec i s
  | .error _ => .next (s.raiseError .invalidSymbol)

/-- One step of DDC. With no request running it does nothing: "after reset DDC does nothing until the host writes START" (R271). The parameters
`TONE`, `SIN_EPS` and `SAMPLE_FMT` are its argument (R7). -/
def ddcStep (U : Config.ToneUnit) (s : State) : Outcome :=
  match s.phase with
  | .rest => .next s
  | .check => if s.formatOk then .next s.beginValidate else .next (s.raiseError .invalidFormat)
  | .validate => if s.allValid then .next s.beginGenerate else .next (s.raiseError .invalidSymbol)
  | .generate => if s.pc < s.symbolCount then fetchAndRun s else .next s.beginEncode
  | .encode => s.encodeLink U
  | .complete => .next s.finish

end Sys2Proof.Machine
end

