-- ==== Sys2Proof/Machine/HostPort.lean ====
section
/-! DEFINITION. The host's accesses (R20, R227, R280, R281), and the whole machine's next step. -/

namespace Sys2Proof.Machine

/-- A host write of register `n`. A `CTRL` write is decoded as a command; one with bit 0 clear does nothing (R21, R82). While BUSY only `CTRL` may be written
(R280; log entries 13, 14 and 15). -/
def hostWriteReg (n : Nat) (v : Word) (s : State) : Outcome :=
  if n = 0 then
    match decodeCmd v with
    | .ok i => exec i s
    | .error _ => .next s
  else if 8 < n then .fault (.noSuchRegister n)
  else if s.busy then .refused .hostAccessWhileBusy
  else if fitsReg n v then .next (s.setReg n v)
  else .refused (.valueTooWide n)

/-- A host read of register `n`. While BUSY only `STATUS` may be read (R280; log entry 14). -/
def hostReadReg (n : Nat) (s : State) : Outcome :=
  if 8 < n then .fault (.noSuchRegister n)
  else if s.busy ∧ n ≠ 1 then .refused .hostAccessWhileBusy
  else .next (s.reply (s.regValue n))

/-- A host write of `SYM[a]` (R34, R280). -/
def hostWriteSym (a : Nat) (c : Byte) (s : State) : Outcome :=
  if a < s.params.maxSymbols then
    if s.busy then .refused .hostAccessWhileBusy else .next (s.setSym a c)
  else .fault (.noSuchSymElement a)

/-- A host read of `SYM[a]` (R34, R280). -/
def hostReadSym (a : Nat) (s : State) : Outcome :=
  if a < s.params.maxSymbols then
    if s.busy then .refused .hostAccessWhileBusy else .next (s.reply ((s.symAt a).setWidth 32))
  else .fault (.noSuchSymElement a)

/-- A host read of `OUT[a]` (R36, R280, R281). -/
def hostReadOut (a : Nat) (s : State) : Outcome :=
  if s.busy then .refused .hostAccessWhileBusy else .next (s.reply ((s.outSeenByHost a).setWidth 32))

/-- What one thing the host does makes of the state. In `pause` DDC makes a step; `await` ends here only when no request runs (`machineStep`). -/
def hostStep (U : Config.ToneUnit) (a : HostAction) (s : State) : Outcome :=
  match a with
  | .writeReg n v => hostWriteReg n v s
  | .readReg n => hostReadReg n s
  | .writeSym a c => hostWriteSym a c s
  | .readSym a => hostReadSym a s
  | .readOut a => hostReadOut a s
  | .reset => .next s.resetAll
  | .pause => ddcStep U s
  | .await => .next s

/-- The next step of block and host together. What the host does next comes first, in the order it issues it (R59); an `await` lets DDC run while BUSY; with
nothing left to do for the host, DDC runs (log entry 10). -/
def machineStep (U : Config.ToneUnit) (s : State) : Outcome :=
  match s.pending with
  | [] => ddcStep U s
  | .await :: rest => if s.busy then ddcStep U s else hostStep U .await (s.setPending rest)
  | a :: rest => hostStep U a (s.setPending rest)

end Sys2Proof.Machine
end

