-- ==== Sys2Proof/Machine/Step.lean ====
section
/-! DEFINITION. The step of the machine, and where an instruction stands that the next step runs. -/

namespace Sys2Proof.Machine

/-- One step of the machine, with the block's own samples (`Config.toneUnit`). -/
def step (s : State) : Host.Outcome State Fault Refusal := machineStep Config.toneUnit s

/-- The instruction whose bits are `w`, stored where the next step fetches it: a symbol (8 bits) at `SYM[pc]` of a request in its generation pass, a
command (32 bits) as the host's next write to `CTRL` (log entry 11). -/
def State.withFetchWord (s : State) (nbits w : Nat) : State :=
  if nbits = 8 then s.placeSymbol (BitVec.ofNat 8 w)
  else if nbits = 32 then s.placeCommand (BitVec.ofNat 32 w)
  else s

end Sys2Proof.Machine
end

