-- ==== Sys2Proof/Safety.lean ====
section
/-! DEFINITION. What claims are stated in: the request as a function (R223), the number a sample denotes, what a step leaves alone, and the invariant that
every step keeps. -/

namespace Sys2Proof.Machine

/-! The request as a function of its inputs (R223). -/

/-- The configuration of a request: the values of `x[2]` to `x[6]` (R223). -/
structure RequestConfig where
  rate : Int
  toneUs : Nat
  silenceUs : Nat
  ch : Nat
  bits : Nat
  deriving DecidableEq, Repr

/-- What a request answers (R223). -/
inductive RunResult where
  | ok (bytes : List Byte)
  | error (e : ErrorKind)
  deriving DecidableEq, Repr

/-- The block of a symbol under a configuration; a code without a row has none. -/
def symbolBlock (t : RoundTie) (cfg : RequestConfig) (c : Byte) : List Sample :=
  match tonePair c with
  | some row =>
    block row cfg.rate.toNat (samplesOf t cfg.rate.toNat cfg.toneUs) (samplesOf t cfg.rate.toNat cfg.silenceUs)
  | none => []

/-- The sample sequence of a symbol sequence: the blocks in input order (R139, R223). -/
def sequenceOf (t : RoundTie) (cfg : RequestConfig) (syms : List Byte) : List Sample := syms.flatMap (symbolBlock t cfg)

/-- `RUN(cfg, syms)` (R223), under the parameters `TONE` and `ROUND_TIE`; on the launch premises it is the spec's (log entry 23). -/
def run (U : Config.ToneUnit) (t : RoundTie) (cfg : RequestConfig) (syms : List Byte) : RunResult :=
  if ¬ (1 ≤ cfg.rate ∧ cfg.ch = 1 ∧ cfg.bits = 16) then .error .invalidFormat
  else if ¬ syms.all validCode then .error .invalidSymbol
  else
    .ok (header cfg.rate.toNat cfg.ch cfg.bits (sequenceOf t cfg syms).length ++
      (sequenceOf t cfg syms).flatMap fun x => (frame U t x).getD [])

/-- The configuration a state holds. -/
def State.config (s : State) : RequestConfig where
  rate := s.sampleRate.toInt
  toneUs := s.toneDurUs.toNat
  silenceUs := s.silenceDurUs.toNat
  ch := s.channels.toNat
  bits := s.bits.toNat

/-- `RUN` on what a state holds: its configuration and `SYM[0 .. N)`. -/
def State.runResult (s : State) (U : Config.ToneUnit) : RunResult := run U s.params.roundTie s.config (s.symbols s.symbolCount)

/-- The state after a request says what `RUN` answered (R223). -/
def State.shows (t : State) : RunResult → Prop
  | .ok bytes =>
    t.runState = .done ∧ errField t.status = 0 ∧ t.outLen.toNat = bytes.length ∧
      ∀ a (h : a < bytes.length), t.outSeenByHost a = bytes[a]
  | .error e => t.runState = .error ∧ errField t.status = errorCode e ∧ t.outLen = 0

/-! What a sample denotes (R12). -/

/-- The real or infinite number a sample denotes; NaN denotes none. -/
noncomputable def Sample.value (U : Config.ToneUnit) : Sample → Option EReal
  | .tone lo hi j fs => some ((U.tone lo hi j fs : ℝ) : EReal)
  | .num v => some (((v : ℚ) : ℝ) : EReal)
  | .posInf => some ⊤
  | .negInf => some ⊥
  | .nan => none

/-- The sample is a value of the format `SAMPLE_FMT` (R12). -/
def Sample.inFormat (U : Config.ToneUnit) (x : Sample) : Prop :=
  match x.value U with
  | some r => r ∈ U.fmt.denotes
  | none => U.fmt.hasNan

/-! The machine with given samples (R7). -/

/-- The machine as the host's interface takes it, with the parameters `TONE`, `SIN_EPS` and `SAMPLE_FMT` given; `core` is the machine with the block's own. -/
def coreWith (U : Config.ToneUnit) : Host.Core :=
  { State := State, Fault := Fault, Refusal := Refusal, step := machineStep U, reset := State.reset }

/-! Fields of a byte list (R89). -/

/-- The byte at an offset; past the end there is none, and 0 stands for it. -/
def byteAt (l : List Byte) (a : Nat) : Nat := (l.getD a 0).toNat

/-- The value of a `u16` field (R89). -/
def fieldU16 (l : List Byte) (a : Nat) : Nat := byteAt l a + 2 ^ 8 * byteAt l (a + 1)

/-- The value of a `u32` field (R89). -/
def fieldU32 (l : List Byte) (a : Nat) : Nat :=
  byteAt l a + 2 ^ 8 * byteAt l (a + 1) + 2 ^ 16 * byteAt l (a + 2) + 2 ^ 24 * byteAt l (a + 3)

/-- The value of a signed 16-bit sample (R89). -/
def fieldI16 (l : List Byte) (a : Nat) : Int :=
  if fieldU16 l a < 32768 then fieldU16 l a else (fieldU16 l a : Int) - 65536

/-! What a step leaves alone. -/

/-- The configuration registers and the symbol count, `x[2]` to `x[7]`, are as before. -/
def keepsConfig (s t : State) : Prop :=
  t.sampleRate = s.sampleRate ∧ t.toneDurUs = s.toneDurUs ∧ t.silenceDurUs = s.silenceDurUs ∧ t.channels = s.channels ∧
    t.bits = s.bits ∧ t.symCount = s.symCount

/-- Every element of SYM reads as before, and ROM and the parameters are as before. -/
def keepsSym (s t : State) : Prop :=
  (∀ a, t.sym.read a = s.sym.read a) ∧ (∀ a, t.symAt a = s.symAt a) ∧ t.rom = s.rom ∧ t.params = s.params

/-- Every byte of OUT reads as before. -/
def keepsOut (s t : State) : Prop := ∀ a, t.out.read a = s.out.read a

/-- The working registers are as before. -/
def keepsWork (s t : State) : Prop := t.pc = s.pc ∧ t.j = s.j ∧ t.wp = s.wp

/-- What is the host's is as before. -/
def keepsHost (s t : State) : Prop := t.pending = s.pending ∧ t.replies = s.replies

/-- The counts that name unspecified bytes are as before. -/
def keepsCounts (s t : State) : Prop := t.resetCount = s.resetCount ∧ t.runCount = s.runCount

/-- What a symbol with the pair `(lo, hi)` leaves (R110 to R121, R137): the samples of LINK so far, then the burst from `j = 0`, then the gap; `pc` one
further, `wp` counted up by the block. -/
def appendsBlock (s t : State) (lo hi : Nat) : Prop :=
  t.pc = s.pc + 1 ∧ t.wp = s.wp + (s.nsig + s.nsil) ∧ t.link.length = s.link.length + (s.nsig + s.nsil) ∧
    (∀ k, k < s.link.length → t.link[k]? = s.link[k]?) ∧
    (∀ r, r < s.nsig → t.link[s.link.length + r]? = some (.tone lo hi r s.fs)) ∧
    (∀ r, r < s.nsil → t.link[s.link.length + s.nsig + r]? = some (.num 0))

/-- What an error with this code leaves (R245): the report, and everything else as it was. -/
def endsInError (s t : State) (code : BitVec 2) : Prop :=
  t.runState = .error ∧ errField t.status = code ∧ reservedField t.status = reservedField s.status ∧ t.outLen = 0 ∧ t.link = [] ∧
    t.phase = .rest ∧ keepsConfig s t ∧ keepsSym s t ∧ keepsOut s t ∧ keepsWork s t ∧ keepsHost s t ∧ keepsCounts s t

/-- The launch premises of R276 that a START can break: P2, P4, and P3 where the format check passes. -/
def launchPremises (s : State) : Prop :=
  s.symCount.toNat ≤ s.params.maxSymbols ∧ 1 ≤ s.toneDurUs.toNat ∧
    (s.formatOk = true → 44 + 2 * (s.symCount.toNat * (s.nsig + s.nsil)) ≤ 2 ^ 32 - 1)

/-- The words of a `CTRL` write that are START (R82). -/
abbrev isStartWord (v : Word) : Prop := v &&& 1 = 1

/-- A host action that ends what a finished request left: START or reset (R246, R282). -/
def startsOrResets : HostAction → Prop
  | .writeReg n v => n = 0 ∧ isStartWord v
  | .reset => True
  | _ => False

/-! The invariant. -/

/-- LINK when the first `n` symbols of the sequence have been generated (R139). -/
def State.linkAfter (s : State) (n : Nat) : List Sample := sequenceOf s.params.roundTie s.config (s.symbols n)

/-- The invariant of every step: the memories keep their form; `STATUS` is one of its legal words; a request is in progress exactly while BUSY; LINK
is empty outside the generation of a request; OUT holds the whole container while DONE; and each step of a request has what the steps before it
established, under the samples `U`. -/
structure State.Inv (s : State) (U : Config.ToneUnit) : Prop where
  symWf : Memory.wf s.sym
  outWf : Memory.wf s.out
  symInside : ∀ c ∈ s.sym, c.1 < s.params.maxSymbols
  reserved : reservedField s.status = 0
  errLegal : errField s.status ≠ 3
  errIff : errField s.status ≠ 0 ↔ s.runState = .error
  phaseIff : s.phase = .rest ↔ s.busy = false
  linkEmpty : s.phase = .rest ∨ s.phase = .check ∨ s.phase = .validate → s.link = []
  lengthZero : s.runState = .idle ∨ s.runState = .error → s.outLen = 0
  whole : s.runState = .done → 44 ≤ s.outLen.toNat ∧ ∀ a, a < s.outLen.toNat → (s.out.read a).isSome
  premises : s.busy = true → s.launchRefusal = none
  formatPassed : s.phase = .validate ∨ s.phase = .generate ∨ s.phase = .encode ∨ s.phase = .complete → s.formatOk = true
  symbolsPassed : s.phase = .generate ∨ s.phase = .encode ∨ s.phase = .complete → s.allValid = true
  generating : s.phase = .generate → s.pc ≤ s.symbolCount ∧ s.link = s.linkAfter s.pc ∧ s.wp = s.link.length
  generated : s.phase = .encode ∨ s.phase = .complete → s.pc = s.symbolCount ∧ s.link = s.linkAfter s.symbolCount
  encoded : s.phase = .complete → ∃ bytes, container U s.params.roundTie s.fs s.channels.toNat s.bits.toNat s.link = some bytes ∧
    s.wp = bytes.length ∧ ∀ a (h : a < bytes.length), s.out.read a = some bytes[a]

end Sys2Proof.Machine
end

