-- ==== Sys2Proof/Certificates/Slice0/Obligations.lean ====
section
/-! DEFINITION. The statements for the provers. Where `U` stands for the parameters `TONE`, `SIN_EPS` and `SAMPLE_FMT` (R7), a statement holds for each choice of them, the
block's own (`Config.toneUnit`, with which `step` is `machineStep`) and the ideal block (`Config.idealUnit`: the spec's defaults for `TONE` and `SIN_EPS`) among them; `ROUND_TIE` and `MAX_SYMBOLS` are in the state. -/

open Sys2Proof Sys2Proof.Machine

/-! ## Encodings -/

/-- Words written out from the spec's tables (R81, R82, R91): three symbols, two commands that differ in the ignored bits, the source's illegal example
`'A'`, and a `CTRL` write that is no command. -/
def Obligations.DecodesWordsOfTheTable : Prop :=
  decode (.sym8 0b00110101) = .ok .key5 ∧ decode (.sym8 0b00101010) = .ok .keyStar ∧ decode (.sym8 0b00100011) = .ok .keyHash ∧
    decode (.cmd 0x00000001) = .ok .start ∧ decode (.cmd 0xFFFFFFFF) = .ok .start ∧
    decode (.sym8 0b01000001) = .error (.illegalSymbol 0x41) ∧ decode (.cmd 0xFFFFFFFE) = .error (.noCommand 0xFFFFFFFE)

/-- Decoding is total and unambiguous (R94, with the set of R81): a byte is valid exactly if it is one of the twelve codes, a valid byte selects exactly one
symbol, a byte decodes to a symbol exactly if it is that symbol's code, and any other byte is rejected as illegal. -/
def Obligations.EveryByteIsOneSymbolOrIllegal : Prop :=
  ∀ c : Byte,
    (validCode c = true ↔ (0x30 ≤ c.toNat ∧ c.toNat ≤ 0x39) ∨ c.toNat = 0x2A ∨ c.toNat = 0x23) ∧
    (validCode c = true → ∃ i, i.isSymbol = true ∧ decodeSym c = .ok i ∧ ∀ k, decodeSym c = .ok k → k = i) ∧
    (∀ i, decodeSym c = .ok i ↔ encode i = .sym8 c) ∧
    (validCode c = false → decodeSym c = .error (.illegalSymbol c))

/-- START is a `CTRL` write with bit 0 set, whatever the other bits are; a write with bit 0 clear is no command (R82). -/
def Obligations.StartIsBitZeroOfTheCtrlWrite : Prop :=
  ∀ v : Word, (decodeCmd v = .ok .start ↔ v &&& 0x00000001 = 0x00000001) ∧
    (v &&& 0x00000001 = 0 → decodeCmd v = .error (.noCommand v))

/-- A symbol sequence written to SYM is fetched back symbol by symbol (R80, R81, R93): whatever SYM held, the code at each address below the sequence's length decodes
to the instruction at that place, and with `SYM_COUNT` set to the length the validation pass accepts it. -/
def Obligations.SymbolSequenceReadsBackFromSym : Prop :=
  ∀ (prog : List Instr) (s : State), programWellFormed s.params.maxSymbols prog = true →
    let t : State := { s with sym := s.sym.writeList 0 (encodeProgram prog), symCount := BitVec.ofNat 32 prog.length }
    t.symbolCount = prog.length ∧ t.allValid = true ∧ ∀ p (h : p < prog.length), decodeSym (t.symAt p) = .ok prog[p]

/-! ## Reset, the step, the invariant -/

/-- The state after reset (R38): the registers' values, LINK empty, ROM its table, every element of SYM an unspecified byte, and every host read of OUT answered by an
unspecified byte. That an unspecified byte is a free value named by a count and an address is the model's choice (log entry 5). -/
def Obligations.ResetStateIsTheTable : Prop :=
  let s := State.reset
  s.regValue 0 = 0 ∧ s.regValue 1 = 0 ∧ s.regValue 2 = 44100 ∧ s.regValue 3 = 50000 ∧ s.regValue 4 = 50000 ∧ s.regValue 5 = 1 ∧
    s.regValue 6 = 16 ∧ s.regValue 7 = 0 ∧ s.regValue 8 = 0 ∧ s.runState = .idle ∧ errField s.status = 0 ∧ s.link = [] ∧
    s.rom.rows = romTable ∧ (∀ a, s.symAt a = Config.symUnspecified s.resetCount a) ∧
    ∀ a, s.outSeenByHost a = Config.outUnspecified s.runCount a

/-- The reset input, asserted in any state (a running request included), leaves the reset values and ends the request (R270). SYM and OUT hold new unspecified
bytes (log entry 5); reset is one step (log entry 17). -/
def Obligations.ResetInputRestoresTheResetState : Prop :=
  ∀ (s : State) (rest : List HostAction), s.pending = .reset :: rest →
    ∃ t, step s = .next t ∧ (∀ n, n ≤ 8 → t.regValue n = State.reset.regValue n) ∧ t.busy = false ∧ t.phase = .rest ∧ t.link = [] ∧
      t.rom = s.rom ∧ (∀ a, t.symAt a = Config.symUnspecified (s.resetCount + 1) a) ∧
      (∀ a, t.outSeenByHost a = Config.outUnspecified (s.runCount + 1) a) ∧ t.pending = rest ∧ t.replies = s.replies

/-- The step runs the symbol it fetches, and adds nothing around it: in the generation pass, with the host idle, the step is the meaning of the instruction that `SYM[pc]` decodes
to (R139). That a symbol is one step is the model's choice (log entry 9). -/
def Obligations.StepRunsTheFetchedSymbol : Prop :=
  ∀ (s : State) (i : Instr), s.pending = [] → s.phase = .generate → s.pc < s.symbolCount → decodeSym (s.symAt s.pc) = .ok i →
    step s = exec i s

/-- The step is the oldest thing the host does. A `CTRL` write that decodes to an instruction is taken off the host's list and is that instruction's meaning
(R220); any other action is taken off the list and is `hostStep` of it, in the order in which the host issued it (R59, item 3). While BUSY an `await` lets DDC make its
step, and so does an idle host. The list, and its `pause` and `await`, are the model's (log entry 10). -/
def Obligations.StepRunsTheWrittenCommand : Prop :=
  ∀ s : State,
    (∀ v rest i, s.pending = .writeReg 0 v :: rest → decodeCmd v = .ok i → step s = exec i (s.setPending rest)) ∧
    (∀ a rest, s.pending = a :: rest → (a = .await → s.busy = false) → step s = hostStep Config.toneUnit a (s.setPending rest)) ∧
    (∀ rest, s.pending = .await :: rest → s.busy = true → step s = ddcStep Config.toneUnit s) ∧
    (s.pending = [] → step s = ddcStep Config.toneUnit s)

/-- The reset state meets the invariant, which is the model's own (`State.Inv`). -/
def Obligations.ResetMeetsInvariant : Prop := ∀ U, State.reset.Inv U

/-- Every step keeps the invariant, from every state that meets it: for each choice of the samples, and so `step`, with the block's own. -/
def Obligations.StepKeepsInvariant : Prop :=
  (∀ (U : Config.ToneUnit) (s t : State), s.Inv U → machineStep U s = .next t → t.Inv U) ∧
    ∀ s t : State, s.Inv Config.toneUnit → step s = .next t → t.Inv Config.toneUnit

/-- Without a request and without anything the host does, nothing happens (R271). An idle host is an empty list (log entry 10). -/
def Obligations.NothingHappensWithoutStart : Prop :=
  ∀ (U : Config.ToneUnit) (s : State), s.Inv U → s.pending = [] → s.busy = false → machineStep U s = .next s

/-! ## The twelve symbols -/

/-- Each symbol appends the block of its own pair to LINK and steps `pc`, in every state (R110 to R121, R137). -/
def Obligations.EachSymbolAppendsItsBlock : Prop :=
  ∀ s : State,
    (∃ t, exec .key0 s = .next t ∧ appendsBlock s t 941 1336) ∧ (∃ t, exec .key1 s = .next t ∧ appendsBlock s t 697 1209) ∧
    (∃ t, exec .key2 s = .next t ∧ appendsBlock s t 697 1336) ∧ (∃ t, exec .key3 s = .next t ∧ appendsBlock s t 697 1477) ∧
    (∃ t, exec .key4 s = .next t ∧ appendsBlock s t 770 1209) ∧ (∃ t, exec .key5 s = .next t ∧ appendsBlock s t 770 1336) ∧
    (∃ t, exec .key6 s = .next t ∧ appendsBlock s t 770 1477) ∧ (∃ t, exec .key7 s = .next t ∧ appendsBlock s t 852 1209) ∧
    (∃ t, exec .key8 s = .next t ∧ appendsBlock s t 852 1336) ∧ (∃ t, exec .key9 s = .next t ∧ appendsBlock s t 852 1477) ∧
    (∃ t, exec .keyStar s = .next t ∧ appendsBlock s t 941 1209) ∧ (∃ t, exec .keyHash s = .next t ∧ appendsBlock s t 941 1477)

/-- The frame of the twelve symbols: apart from LINK and the working registers `pc`, `j` and `wp`, every piece of state is as before, and every byte of SYM and
OUT reads as before. -/
def Obligations.SymbolsLeaveAllElseAlone : Prop :=
  ∀ (i : Instr) (s t : State), i.isSymbol = true → exec i s = .next t →
    t.status = s.status ∧ t.outLen = s.outLen ∧ keepsConfig s t ∧ keepsSym s t ∧ keepsOut s t ∧ keepsHost s t ∧ keepsCounts s t ∧
      t.phase = s.phase

/-- The table of tone pairs (R122, R124): each pair is a row frequency with a column frequency, each such pair is some symbol's, no two symbols share one, and the low
tone is the lower. -/
def Obligations.TonePairsAreABijection : Prop :=
  (∀ c row, tonePair c = some row → row.low ∈ [697, 770, 852, 941] ∧ row.high ∈ [1209, 1336, 1477] ∧ row.low < row.high) ∧
    (∀ lo ∈ [697, 770, 852, 941], ∀ hi ∈ [1209, 1336, 1477], ∃ c, tonePair c = some ⟨lo, hi⟩) ∧
    ∀ c d row, tonePair c = some row → tonePair d = some row → c = d

/-! ## Counts, rounding and the tone formula -/

/-- A count of samples is `round` of the exact quotient, under every tie rule (R131, R132). Under `away` and `up` it is the integer formula; another tie rule can
give another count only at a tie. Both counts of a request are this one function. -/
def Obligations.SampleCountIsRoundedQuotient : Prop :=
  (∀ (t : RoundTie) (fs d : Nat),
    ((samplesOf t fs d : Nat) : Int) = roundTo t (((fs : ℚ) * (d : ℚ)) / 1000000) ∧
      (t ≠ .even → samplesOf t fs d = (fs * d + 500000) / 1000000) ∧
      (samplesOf t fs d ≠ (fs * d + 500000) / 1000000 → fs * d % 1000000 = 500000)) ∧
    ∀ s : State, s.nsig = samplesOf s.params.roundTie s.fs s.toneDurUs.toNat ∧ s.nsil = samplesOf s.params.roundTie s.fs s.silenceDurUs.toNat

/-- `round` (R11): the integer nearest to `v`; at a tie `away` is the one farther from zero, `up` the greater, `even` the even one. -/
def Obligations.RoundIsNearestWithTieRule : Prop :=
  ∀ v : ℝ,
    (∀ t, |(roundTo t v : ℝ) - v| ≤ 1 / 2 ∧ ∀ n : Int, |(n : ℝ) - v| < 1 / 2 → roundTo t v = n) ∧
    (v - ⌊v⌋ = 1 / 2 → |v| < |((roundTo .away v : Int) : ℝ)| ∧ v < ((roundTo .up v : Int) : ℝ) ∧ Even (roundTo .even v)) ∧
    roundTo .away v = -roundTo .away (-v)

/-- What QNT makes of a tone sample is `Q` of a real number of the format within `SIN_EPS` of the ideal sample (R134, R135, R163); with `SIN_EPS = 0` it is `Q` of the ideal
sample. The tone sample stands on LINK by its name (log entry 2). -/
def Obligations.ToneCodeIsQuantizedNearIdeal : Prop :=
  ∀ (U : Config.ToneUnit) (t : RoundTie) (lo hi j fs : Nat), 1 ≤ fs →
    (∃ r : ℝ, Sample.value U (.tone lo hi j fs) = some (r : EReal) ∧ (r : EReal) ∈ U.fmt.denotes ∧ |r - idealTone lo hi j fs| ≤ U.sinEps ∧
      quantize U t (.tone lo hi j fs) = some (quantizeNum t r)) ∧
    (U.sinEps = 0 → quantize U t (.tone lo hi j fs) = some (quantizeNum t (idealTone lo hi j fs)))

/-- The tone formula at a rate of 12 Hz, where its sines are known exactly (R134): symbol `'1'` at `j = 1` is `-1/4`, with code -8192, and symbol `'5'` is `√3 / 2`, with
code 28377, under every tie rule; the ideal block, the spec's default for `TONE`, makes these codes of them. At `j = 0` every pair gives 0. -/
def Obligations.ToneFormulaAtExactAngles : Prop :=
  idealTone 697 1209 1 12 = -1 / 4 ∧ idealTone 770 1336 1 12 = Real.sqrt 3 / 2 ∧
    (∀ t, quantizeNum t (idealTone 697 1209 1 12) = -8192 ∧ quantizeNum t (idealTone 770 1336 1 12) = 28377 ∧
      quantize Config.idealUnit t (.tone 697 1209 1 12) = some (-8192) ∧ quantize Config.idealUnit t (.tone 770 1336 1 12) = some 28377) ∧
    ∀ lo hi fs, idealTone lo hi 0 fs = 0

/-! ## The quantizer -/

/-- The code of a sample is clamp, then scale by the sign, then round, of the number it denotes, infinities included (R161 to R163); a sample without a number
has no code. The last clause is R163's worked example, which no tie rule changes. -/
def Obligations.QuantizerClampsScalesRounds : Prop :=
  ∀ (U : Config.ToneUnit) (t : RoundTie),
  (∀ x : Sample,
    (∀ r, x.value U = some r →
      let c : ℝ := (max (-1) (min r 1)).toReal
      let y : ℝ := if c < 0 then c * 32768 else c * 32767
      (r = ⊤ → c = 1) ∧ (r = ⊥ → c = -1) ∧ -32768 ≤ y ∧ y ≤ 32767 ∧ quantize U t x = some (roundTo t y)) ∧
    (x.value U = none → quantize U t x = none)) ∧
    quantize U t (.num (149343425815589 / 1000000000000000)) = some 4894

/-- Every code fits a signed 16-bit integer under every tie rule, and its two bytes read back as the code: nothing wraps (R165). -/
def Obligations.QuantizerNeverLeavesSixteenBits : Prop :=
  (∀ (t : RoundTie) (v : ℝ), -32768 ≤ quantizeNum t v ∧ quantizeNum t v ≤ 32767) ∧
    ∀ (U : Config.ToneUnit) (t : RoundTie) (x : Sample) (q : Int), quantize U t x = some q →
      -32768 ≤ q ∧ q ≤ 32767 ∧ ∃ b, frame U t x = some b ∧ b.length = 2 ∧ fieldI16 b 0 = q

/-- The source's boundary values and their bytes, under every tie rule (R166). -/
def Obligations.QuantizerBoundaryValues : Prop :=
  (∀ t, quantizeNum t (1 : ℝ) = 32767 ∧ quantizeNum t (-1 : ℝ) = -32768 ∧ quantizeNum t (0 : ℝ) = 0) ∧
    ∀ U t, frame U t (.num 1) = some [0xFF, 0x7F] ∧ frame U t (.num (-1)) = some [0x00, 0x80] ∧ frame U t (.num 0) = some [0x00, 0x00]

/-- Out-of-range samples saturate, infinities too, and no ideal tone sample is out of range (R167). -/
def Obligations.QuantizerSaturates : Prop :=
  (∀ (t : RoundTie) (v : ℝ), (1 ≤ v → quantizeNum t v = 32767) ∧ (v ≤ -1 → quantizeNum t v = -32768)) ∧
    (∀ U t, quantize U t (.num (3 / 2)) = some 32767 ∧ quantize U t (.num (-2)) = some (-32768) ∧ quantize U t .posInf = some 32767 ∧
      quantize U t .negInf = some (-32768)) ∧
    ∀ lo hi j fs, -1 ≤ idealTone lo hi j fs ∧ idealTone lo hi j fs ≤ 1

/-- `Q` does not decrease, it is not odd, and the samples nearest to zero with a code other than 0 lie just beyond `1/65534` and `-1/65536`, under every tie
rule (R170). -/
def Obligations.QuantizerIsMonotoneNotOdd : Prop :=
  ∀ t : RoundTie,
    (∀ v w : ℝ, v ≤ w → quantizeNum t v ≤ quantizeNum t w) ∧
    quantizeNum t (9 / 10 : ℝ) = 29490 ∧ quantizeNum t (-(9 / 10) : ℝ) = -29491 ∧ quantizeNum t (1 / 4 : ℝ) = 8192 ∧
    quantizeNum t (-(1 / 4) : ℝ) = -8192 ∧
    ∀ v : ℝ,
      (0 ≤ v → v < 1 / 65534 → quantizeNum t v = 0) ∧ (1 / 65534 < v → 1 ≤ quantizeNum t v) ∧
      (v ≤ 0 → -(1 / 65536) < v → quantizeNum t v = 0) ∧ (v < -(1 / 65536) → quantizeNum t v ≤ -1)

/-- Ties of the scaled value (R169): at every `(2k+1)/65534` up to 1 and at every `-(2k+1)/65536` down to -1 the code is the one the tie rule says. -/
def Obligations.QuantizerTiesFollowTheRule : Prop :=
  (∀ k : Nat, k < 32767 →
    let v : ℝ := (2 * k + 1) / 65534
    quantizeNum .away v = k + 1 ∧ quantizeNum .up v = k + 1 ∧ quantizeNum .even v = if k % 2 = 0 then (k : Int) else k + 1) ∧
  ∀ k : Nat, k < 32768 →
    let w : ℝ := -((2 * k + 1) / 65536)
    quantizeNum .away w = -(k + 1 : Int) ∧ quantizeNum .up w = -(k : Int) ∧
      quantizeNum .even w = if k % 2 = 0 then -(k : Int) else -(k + 1 : Int)

/-! ## The container -/

/-- The header of every container that DDC can produce (R86, R182 to R194): 44 bytes, the four tags, and each field's value. -/
def Obligations.HeaderFieldsHoldTheirValues : Prop :=
  ∀ fs m : Nat, 1 ≤ fs → fs < 2 ^ 31 → m ≤ 2147483625 →
    let h := header fs 1 16 m
    h.length = 44 ∧
      h.take 4 = [0x52, 0x49, 0x46, 0x46] ∧ fieldU32 h 4 = 36 + 2 * m ∧ (h.drop 8).take 4 = [0x57, 0x41, 0x56, 0x45] ∧
      (h.drop 12).take 4 = [0x66, 0x6D, 0x74, 0x20] ∧ fieldU32 h 16 = 16 ∧ fieldU16 h 20 = 1 ∧ fieldU16 h 22 = 1 ∧
      fieldU32 h 24 = fs ∧ fieldU32 h 28 = 2 * fs ∧ fieldU16 h 32 = 2 ∧ fieldU16 h 34 = 16 ∧
      (h.drop 36).take 4 = [0x64, 0x61, 0x74, 0x61] ∧ fieldU32 h 40 = 2 * m

/-- The length of a container (R197): `44 + 2 × M`, even and at least 44; it and the two size fields fit 32 bits exactly when `M ≤ 2147483625`, a START
whose container would exceed this is refused. What the function `container` holds beyond it is the model's (log entry 23). -/
def Obligations.ContainerLengthIsHeaderPlusSamples : Prop :=
  (∀ (U : Config.ToneUnit) (t : RoundTie) (fs ch bits : Nat) (xs : List Sample) (bytes : List Byte), container U t fs ch bits xs = some bytes →
    bytes.length = 44 + 2 * xs.length ∧ 2 ∣ bytes.length ∧ 44 ≤ bytes.length ∧
      (bytes.length < 2 ^ 32 ∧ bytes.length - 8 < 2 ^ 32 ∧ 2 * xs.length < 2 ^ 32 ↔ xs.length ≤ 2147483625)) ∧
    ∀ s : State, s.busy = false → s.formatOk = true → 2147483625 < s.symCount.toNat * (s.nsig + s.nsil) → ∃ r, exec .start s = .refused r

/-- The data section (R195, R87): sample `i` stands at offset `44 + 2 × i`, low byte first, as its code, and nothing follows the last. -/
def Obligations.ContainerHoldsEachSampleInOrder : Prop :=
  ∀ (U : Config.ToneUnit) (t : RoundTie) (fs ch bits : Nat) (xs : List Sample) (bytes : List Byte), container U t fs ch bits xs = some bytes →
    bytes.length = 44 + 2 * xs.length ∧
      ∀ i (h : i < xs.length), ∃ q, quantize U t xs[i] = some q ∧ fieldI16 bytes (44 + 2 * i) = q ∧
        ((bytes.drop (44 + 2 * i)).take 2 = i16le q)

/-- The header does not depend on what the samples are (R198): of its 44 bytes only those at 4 to 7 and 40 to 43 depend on how many samples there are, only those
at 24 to 31 on the rate, and the other 28 are the same in every container DDC produces. -/
def Obligations.HeaderIgnoresSampleContent : Prop :=
  ∀ (U : Config.ToneUnit) (t : RoundTie) (fs gs : Nat) (xs ys : List Sample) (a b : List Byte), container U t fs 1 16 xs = some a →
    container U t gs 1 16 ys = some b →
    ∀ i, i < 44 → (4 ≤ i ∧ i < 8 ∨ 40 ≤ i ∧ i < 44 → xs.length = ys.length) → (24 ≤ i ∧ i < 32 → fs = gs) → a[i]? = b[i]?

/-- The function `container` has no value exactly if some sample is not a number (R168, R180). It is the spec's for at most 2147483625 samples (R197) and a format that the check
accepts (R181: a rate of at least 1, one channel, 16 bits); that it has a value elsewhere too, where the spec gives no container (U4, N7), is the model's choice (log entry 23): there
the block refuses the request or ends it in InvalidFormat. -/
def Obligations.OnlyNanHasNoContainer : Prop :=
  ∀ (U : Config.ToneUnit) (t : RoundTie) (fs ch bits : Nat) (xs : List Sample), container U t fs ch bits xs = none ↔ Sample.nan ∈ xs

/-- The identities between fields of R201, read by the host from OUT when the completion of a request has shown DONE. -/
def Obligations.DoneContainerFieldsAgree : Prop :=
  ∀ (U : Config.ToneUnit) (s : State), s.Inv U → s.pending = [] → s.phase = .complete →
    ∃ t, machineStep U s = .next t ∧ t.runState = .done ∧ t.outU32 4 = t.outU32 40 + 36 ∧ t.outU32 40 = t.outLen.toNat - 44 ∧
      t.outU32 28 = t.outU32 24 * t.outU16 32 ∧ t.outU16 32 = t.outU16 22 * t.outU16 34 / 8 ∧ t.outU16 32 ∣ t.outU32 40

/-! ## START and the request -/

/-- START, outside BUSY and on the launch premises (R220, R276): BUSY is shown with no error and LINK is empty; the format check is next, and nothing else of
the block changes. The clause on `OUT_LEN` is the model's choice: its value while BUSY is unspecified (R29, U8; log entry 12). -/
def Obligations.StartBeginsTheRequest : Prop :=
  ∀ s : State, s.busy = false → launchPremises s →
    ∃ t, exec .start s = .next t ∧ t.runState = .busy ∧ errField t.status = 0 ∧ reservedField t.status = reservedField s.status ∧
      t.link = [] ∧ t.phase = .check ∧ t.outLen = s.outLen ∧ keepsConfig s t ∧ keepsSym s t ∧ keepsOut s t ∧ keepsWork s t ∧ keepsHost s t ∧
      t.resetCount = s.resetCount

/-- START outside BUSY is refused exactly outside the launch premises, "never invent a value" (R276). That P2 and P4 are asked whether or not the format check would
pass is the model's reading (log entry 6). -/
def Obligations.StartIsRefusedExactlyOutsidePremises : Prop :=
  ∀ s : State, s.busy = false → ((∃ r, exec .start s = .refused r) ↔ ¬ launchPremises s) ∧ ∀ f, exec .start s ≠ .fault f

/-- A START while BUSY is ignored (R220). -/
def Obligations.StartWhileBusyIsIgnored : Prop := ∀ s : State, s.busy = true → exec .start s = .next s

/-- The format check (R181, R242): a sample rate that is not positive, a channel count other than 1 or a bit depth other than 16 ends the request with error
code 2; otherwise the validation pass is next and nothing else changes. -/
def Obligations.FormatCheckDecides : Prop :=
  ∀ s : State, s.pending = [] → s.phase = .check →
    (s.sampleRate.toInt ≤ 0 ∨ s.channels ≠ 1 ∨ s.bits ≠ 16 → ∃ t, step s = .next t ∧ endsInError s t 2) ∧
    (1 ≤ s.sampleRate.toInt → s.channels = 1 → s.bits = 16 → step s = .next { s with phase := .validate })

/-- The validation pass (R138, R241): an illegal code at any address below `N` ends the request with error code 1; otherwise the generation pass begins
with `wp` and `pc` 0 and nothing else changes. -/
def Obligations.ValidationPassDecides : Prop :=
  ∀ s : State, s.pending = [] → s.phase = .validate →
    (∀ i, i < s.symCount.toNat → validCode (s.symAt i) = false → ∃ t, step s = .next t ∧ endsInError s t 1) ∧
    ((∀ i, i < s.symCount.toNat → validCode (s.symAt i) = true) → step s = .next { s with phase := .generate, pc := 0, wp := 0 })

/-- InvalidFormat comes before InvalidSymbol (R244): with a bad format the request ends in error code 2 two steps after START is written, whatever SYM holds. That there are
two steps is the model's cut of a request (log entry 9). -/
def Obligations.InvalidFormatComesFirst : Prop :=
  ∀ (s : State) (v : Word), s.pending = [.writeReg 0 v] → isStartWord v → s.busy = false → launchPremises s → s.formatOk = false →
    ∃ t, core.run 2 s = .next t ∧ t.runState = .error ∧ errField t.status = 2 ∧ t.outLen = 0 ∧ t.link = []

/-- The length law (R140): when the generation pass is over LINK holds `N × (nsig + nsil)` samples. -/
def Obligations.GeneratedLengthLaw : Prop :=
  ∀ (U : Config.ToneUnit) (s : State), s.Inv U → s.phase = .encode → s.link.length = s.symCount.toNat * (s.nsig + s.nsil)

/-- Completion (R224): `OUT_LEN` is `44 + 2 × M`, LINK is empty, `ERR` 0 and `STATE` DONE; the registers `x[2]` to `x[7]`, SYM and OUT are not
changed, and the host now sees every byte of OUT below `OUT_LEN`. -/
def Obligations.CompletionShowsDone : Prop :=
  ∀ (U : Config.ToneUnit) (s : State), s.Inv U → s.pending = [] → s.phase = .complete →
    ∃ t, machineStep U s = .next t ∧ t.outLen.toNat = 44 + 2 * s.link.length ∧ t.link = [] ∧ errField t.status = 0 ∧ t.runState = .done ∧
      t.phase = .rest ∧ keepsConfig s t ∧ keepsSym s t ∧ keepsOut s t ∧ keepsWork s t ∧
      ∀ a, a < t.outLen.toNat → s.out.read a = some (t.outSeenByHost a)

/-- No step of DDC changes the configuration, SYM or ROM (R33, R34, R224), or what is the host's. -/
def Obligations.BlockNeverWritesItsInputs : Prop :=
  ∀ (U : Config.ToneUnit) (s t : State), ddcStep U s = .next t → keepsConfig s t ∧ keepsSym s t ∧ keepsHost s t ∧ keepsCounts s t

/-- The symbol index (R31, R233): in the generation pass each step takes it one further until it is `N`; the step after that leaves it there and ENC is
next. -/
def Obligations.SymbolIndexAdvancesByOne : Prop :=
  ∀ (U : Config.ToneUnit) (s : State), s.Inv U → s.pending = [] → s.phase = .generate →
    (s.pc < s.symCount.toNat → ∃ t, machineStep U s = .next t ∧ t.pc = s.pc + 1 ∧ t.phase = .generate) ∧
    (¬ s.pc < s.symCount.toNat → ∃ t, machineStep U s = .next t ∧ t.pc = s.symCount.toNat ∧ t.phase = .encode)

/-- A request always ends (R226): from every state of a running request, with the host idle, the state is DONE or ERROR after at most `N + 5` steps, and no
step stops the machine. That a request is cut into `N + 5` steps is the model's choice (log entry 9); the spec gives no bound. -/
def Obligations.EveryRequestEnds : Prop :=
  ∀ (U : Config.ToneUnit) (s : State), s.Inv U → s.pending = [] → s.busy = true →
    ∃ k t, k ≤ s.symCount.toNat + 5 ∧ (coreWith U).run k s = .next t ∧ (t.runState = .done ∨ t.runState = .error)

/-- The request is the function `RUN` (R223): from any state outside BUSY that meets the launch premises, a START that the host writes leads to the state that
`RUN` of the configuration and the symbols says, with `x[2]` to `x[7]`, SYM and ROM as they were and LINK empty. The START has been
taken off the host's list (log entry 10), so the result is this request's. -/
def Obligations.RequestEndsAsRunSays : Prop :=
  ∀ (U : Config.ToneUnit) (s : State) (v : Word), s.pending = [.writeReg 0 v] → isStartWord v → s.busy = false → launchPremises s →
    ∃ k t, (coreWith U).run k s = .next t ∧ t.pending = [] ∧ t.shows (s.runResult U) ∧ keepsConfig s t ∧ keepsSym s t ∧ t.link = []

/-- The container of a symbol sequence (R229): the header for its rate and sample count, then for symbol `p` the codes of its tone samples from offset
`44 + 2 × p × B`, then two zero bytes for each gap sample. The START has been taken off the host's list (log entry 10), so the container is this request's. -/
def Obligations.DoneContainerHoldsEverySymbol : Prop :=
  ∀ (U : Config.ToneUnit) (s : State) (v : Word), s.pending = [.writeReg 0 v] → isStartWord v → s.busy = false → launchPremises s →
    s.formatOk = true → s.allValid = true →
    ∃ k t, (coreWith U).run k s = .next t ∧ t.pending = [] ∧ t.runState = .done ∧ t.outLen.toNat = 44 + 2 * (s.symCount.toNat * (s.nsig + s.nsil)) ∧
      (∀ a, a < 44 → (header s.fs 1 16 (s.symCount.toNat * (s.nsig + s.nsil)))[a]? = some (t.outSeenByHost a)) ∧
      ∀ p, p < s.symCount.toNat → ∃ row, tonePair (s.symAt p) = some row ∧
        (∀ r, r < s.nsig →
          t.outSample (44 + 2 * (p * (s.nsig + s.nsil) + r)) =
            quantizeNum s.params.roundTie (U.tone row.low row.high r s.fs)) ∧
        ∀ r, s.nsig ≤ r → r < s.nsig + s.nsil →
          t.outSeenByHost (44 + 2 * (p * (s.nsig + s.nsil) + r)) = 0 ∧ t.outSeenByHost (45 + 2 * (p * (s.nsig + s.nsil) + r)) = 0

/-- Determinism end to end (R37, R228): two machines with the same `TONE`, `SAMPLE_FMT` and `ROUND_TIE`, equal `x[2]` to `x[7]` and equal `SYM[0 .. N)`, whatever else they
hold, run the requests their hosts start and end them with equal `STATUS`, equal `OUT_LEN` and equal bytes of OUT below it. Both STARTs have been
taken off their hosts' lists (log entry 10), so both requests have run. -/
def Obligations.EqualInputsGiveEqualContainers : Prop :=
  ∀ (U : Config.ToneUnit) (s t : State) (v w : Word), s.Inv U → t.Inv U → s.pending = [.writeReg 0 v] → t.pending = [.writeReg 0 w] → isStartWord v → isStartWord w →
    s.busy = false → t.busy = false → launchPremises s → launchPremises t → t.params.roundTie = s.params.roundTie → keepsConfig s t →
    (∀ a, a < s.symCount.toNat → t.symAt a = s.symAt a) →
    ∃ k s' t', (coreWith U).run k s = .next s' ∧ (coreWith U).run k t = .next t' ∧ s'.pending = [] ∧ t'.pending = [] ∧ s'.busy = false ∧
      t'.status = s'.status ∧ t'.outLen = s'.outLen ∧
      ∀ a, a < s'.outLen.toNat → t'.outSeenByHost a = s'.outSeenByHost a

/-! ## Errors and results stay -/

/-- `STATUS` and `OUT_LEN` change nowhere but at a START the host writes outside BUSY, at the end of a running request, on an error of a running request, and at
reset (R22, R29, R32). That `OUT_LEN` keeps its value at a START is the model's choice: its value while BUSY is unspecified (R29, U8; log entry 12). -/
def Obligations.StatusChangesOnlyWhereTheRulesSay : Prop :=
  ∀ (U : Config.ToneUnit) (s t : State), s.Inv U → machineStep U s = .next t →
    (t.status = s.status ∧ t.outLen = s.outLen) ∨
    (∃ v rest, s.pending = .writeReg 0 v :: rest ∧ isStartWord v ∧ s.busy = false ∧ t.runState = .busy ∧ errField t.status = 0 ∧
      t.outLen = s.outLen) ∨
    (s.busy = true ∧ s.phase = .complete ∧ t.runState = .done ∧ errField t.status = 0) ∨
    (s.busy = true ∧ s.phase = .check ∧ t.runState = .error ∧ errField t.status = 2 ∧ t.outLen = 0) ∨
    (s.busy = true ∧ s.phase = .validate ∧ t.runState = .error ∧ errField t.status = 1 ∧ t.outLen = 0) ∨
    (∃ rest, s.pending = .reset :: rest ∧ t.status = 0 ∧ t.outLen = 0)

/-- Both errors leave what R245 says, and nothing else changes. -/
def Obligations.RaisingAnErrorLeavesOnlyItsReport : Prop :=
  ∀ s : State, endsInError s (s.raiseError .invalidSymbol) 1 ∧ endsInError s (s.raiseError .invalidFormat) 2

/-- An error stays until the next START or reset (R246). -/
def Obligations.ErrorPersistsUntilStartOrReset : Prop :=
  ∀ (U : Config.ToneUnit) (s t : State), s.Inv U → s.runState = .error → (∀ a rest, s.pending = a :: rest → ¬ startsOrResets a) →
    machineStep U s = .next t →
    t.runState = .error ∧ errField t.status = errField s.status ∧ t.outLen = 0

/-- A container stays in OUT until the next START or reset (R282). -/
def Obligations.ContainerPersistsUntilStartOrReset : Prop :=
  ∀ (U : Config.ToneUnit) (s t : State), s.Inv U → s.runState = .done → (∀ a rest, s.pending = a :: rest → ¬ startsOrResets a) →
    machineStep U s = .next t →
    t.runState = .done ∧ t.outLen = s.outLen ∧ ∀ a, t.outSeenByHost a = s.outSeenByHost a

/-! ## The host's accesses -/

/-- A read answers the value and changes nothing else (R20, R21, R56, R281): registers by number, SYM below its depth, OUT at any address. -/
def Obligations.ReadsAnswerAndChangeNothing : Prop :=
  ∀ (U : Config.ToneUnit) (s : State), s.busy = false →
    (∀ n, n ≤ 8 → ∃ t, hostStep U (.readReg n) s = .next t ∧ t = { s with replies := s.regValue n :: s.replies }) ∧
    (∀ a, a < s.params.maxSymbols → hostStep U (.readSym a) s = .next { s with replies := (s.symAt a).setWidth 32 :: s.replies }) ∧
    (∀ a, hostStep U (.readOut a) s = .next { s with replies := (s.outSeenByHost a).setWidth 32 :: s.replies }) ∧ s.regValue 0 = 0

/-- A write to a read-write register reads back and changes no other register (R23 to R28, R56). -/
def Obligations.RegisterWriteReadsBack : Prop :=
  ∀ (U : Config.ToneUnit) (s : State) (n : Nat) (v : Word), s.busy = false → 2 ≤ n → n ≤ 7 → (n = 5 ∨ n = 6 → v.toNat < 2 ^ 16) →
    ∃ t, hostStep U (.writeReg n v) s = .next t ∧ t.regValue n = v ∧ (∀ m, m ≠ n → t.regValue m = s.regValue m) ∧ keepsSym s t ∧
      keepsOut s t ∧ keepsWork s t ∧ keepsHost s t ∧ t.link = s.link ∧ t.phase = s.phase

/-- Writes to the read-only registers, and a `CTRL` write with bit 0 clear in any state, change no state (R20, R92). -/
def Obligations.WritesWithoutEffect : Prop :=
  ∀ (U : Config.ToneUnit) (s : State) (v : Word),
    (s.busy = false → hostStep U (.writeReg 1 v) s = .next s ∧ hostStep U (.writeReg 8 v) s = .next s) ∧
    (v &&& 1 = 0 → hostStep U (.writeReg 0 v) s = .next s)

/-- A write to SYM reads back and leaves every other element, OUT and every register alone (R34, R56, R62). -/
def Obligations.SymWriteReadsBack : Prop :=
  ∀ (U : Config.ToneUnit) (s : State) (a : Nat) (c : Byte), s.busy = false → a < s.params.maxSymbols →
    ∃ t, hostStep U (.writeSym a c) s = .next t ∧ t.symAt a = c ∧ (∀ b, b ≠ a → t.symAt b = s.symAt b) ∧ keepsOut s t ∧
      (∀ n, t.regValue n = s.regValue n) ∧ keepsWork s t ∧ keepsHost s t ∧ t.link = s.link ∧ t.phase = s.phase ∧ t.rom = s.rom ∧
      t.params = s.params

/-- While BUSY the host may read `STATUS`, and a `CTRL` write is ignored; every other access gets no step (R220, R280). Which of the spec's two treatments of the others
is taken is log entry 14. -/
def Obligations.BusyAllowsOnlyStatusReads : Prop :=
  ∀ (U : Config.ToneUnit) (s : State), s.busy = true →
    hostStep U (.readReg 1) s = .next { s with replies := s.status :: s.replies } ∧ (∀ v, hostStep U (.writeReg 0 v) s = .next s) ∧
    (∀ n v t, n ≠ 0 → hostStep U (.writeReg n v) s ≠ .next t) ∧ (∀ n t, n ≠ 1 → hostStep U (.readReg n) s ≠ .next t) ∧
    (∀ a c t, hostStep U (.writeSym a c) s ≠ .next t) ∧ (∀ a t, hostStep U (.readSym a) s ≠ .next t) ∧ ∀ a t, hostStep U (.readOut a) s ≠ .next t

/-- An access to a register above 8 or beyond the end of SYM names no element (R20, R50) and stops the machine by name (log entry 13). -/
def Obligations.AccessesToNoElementStop : Prop :=
  ∀ (U : Config.ToneUnit) (s : State),
    (∀ n v, 8 < n → hostStep U (.writeReg n v) s = .fault (.noSuchRegister n) ∧ hostStep U (.readReg n) s = .fault (.noSuchRegister n)) ∧
    ∀ a c, s.params.maxSymbols ≤ a →
      hostStep U (.writeSym a c) s = .fault (.noSuchSymElement a) ∧ hostStep U (.readSym a) s = .fault (.noSuchSymElement a)

/-! ## Parameters and limits -/

/-- No step changes a parameter (R7), or ROM (R33), in any state; reset neither. That the parameters stand in the state is the model's choice (log entry 3). -/
def Obligations.ParametersNeverChange : Prop :=
  ∀ (U : Config.ToneUnit) (s t : State), machineStep U s = .next t → t.params = s.params ∧ t.rom = s.rom

/-- Every sample SYN writes is a number of the format, neither infinite nor NaN: what LINK holds in a state of the invariant is tone samples and zeros (R135, item 3,
and R136). -/
def Obligations.SynWritesNumbersOfTheFormat : Prop :=
  ∀ (U : Config.ToneUnit) (s : State), s.Inv U → ∀ x ∈ s.link,
    x.inFormat U ∧ (∃ r : ℝ, x.value U = some (r : EReal)) ∧ (x = .num 0 ∨ ∃ lo hi j, x = .tone lo hi j s.fs)

/-- ENC on a LINK of more samples than the size fields can count answers no container: it is refused, in any state and for each choice of the samples. That it is refused is the
model's choice where the spec says not to model a wrap-around (R197, U4; log entry 23). -/
def Obligations.EncodingATooLongLinkIsRefused : Prop :=
  ∀ (U : Config.ToneUnit) (s : State), s.phase = .encode →
    (2147483625 < s.link.length → ddcStep U s = .refused .containerTooLong) ∧
    (s.link.length ≤ 2147483625 → Sample.nan ∉ s.link → ∃ t, ddcStep U s = .next t ∧ t.phase = .complete ∧ t.wp = 44 + 2 * s.link.length)
end

