-- ==== Sys2Proof/Laws/Rounding.lean ====
section
/-! SUPPORT. What `round` and the quantizer's scaling answer, over any ordered field with a floor. -/

namespace Sys2Proof.Machine

variable {K : Type} [Field K] [LinearOrder K] [IsStrictOrderedRing K] [FloorRing K]

omit [IsStrictOrderedRing K] in
/-- `round` answers the floor or the integer above it, by where `v` lies between the two. -/
theorem roundTo_cases (t : RoundTie) (v : K) :
    (roundTo t v = ⌊v⌋ ∧ v - ⌊v⌋ ≤ 1 / 2) ∨ (roundTo t v = ⌊v⌋ + 1 ∧ 1 / 2 ≤ v - ⌊v⌋) := by
  by_cases h₁ : v - ⌊v⌋ < 1 / 2
  · exact .inl ⟨by simp only [roundTo, if_pos h₁], h₁.le⟩
  by_cases h₂ : 1 / 2 < v - ⌊v⌋
  · exact .inr ⟨by simp only [roundTo, if_neg h₁, if_pos h₂], h₂.le⟩
  simp only [roundTo, if_neg h₁, if_neg h₂]
  have hd : v - ⌊v⌋ ≤ 1 / 2 := not_lt.mp h₂
  have hu : 1 / 2 ≤ v - ⌊v⌋ := not_lt.mp h₁
  cases t
  · dsimp only
    split_ifs
    · exact .inl ⟨rfl, hd⟩
    · exact .inr ⟨rfl, hu⟩
  · exact .inr ⟨rfl, hu⟩
  · dsimp only
    split_ifs
    · exact .inl ⟨rfl, hd⟩
    · exact .inr ⟨rfl, hu⟩

/-- `round` is within one half. -/
theorem roundTo_bounds (t : RoundTie) (v : K) : v - 1 / 2 ≤ roundTo t v ∧ (roundTo t v : K) ≤ v + 1 / 2 := by
  have h₀ := Int.floor_le v
  have h₁ := Int.lt_floor_add_one v
  rcases roundTo_cases t v with ⟨h, hv⟩ | ⟨h, hv⟩ <;> rw [h] <;> push_cast <;> constructor <;> linarith

/-- An integer less than one half away is what `round` answers. -/
theorem roundTo_eq_of_abs_lt (t : RoundTie) {v : K} {n : Int} (h : |(n : K) - v| < 1 / 2) : roundTo t v = n := by
  obtain ⟨h₁, h₂⟩ := abs_lt.mp h
  obtain ⟨h₃, h₄⟩ := roundTo_bounds t v
  have h₅ : ((roundTo t v - n : Int) : K) < (1 : Int) := by push_cast; linarith
  have h₆ : ((-1 : Int) : K) < ((roundTo t v - n : Int) : K) := by push_cast; linarith
  have := Int.cast_lt.mp h₅
  have := Int.cast_lt.mp h₆
  omega

@[simp] theorem roundTo_intCast (t : RoundTie) (n : Int) : roundTo t (n : K) = n :=
  roundTo_eq_of_abs_lt t (by simp)

/-- `round` does not decrease. -/
theorem roundTo_mono (t : RoundTie) {v w : K} (h : v ≤ w) : roundTo t v ≤ roundTo t w := by
  by_contra hlt
  push Not at hlt
  have h₁ := Int.floor_le_floor h
  rcases roundTo_cases t v with ⟨ev, hv⟩ | ⟨ev, hv⟩ <;> rcases roundTo_cases t w with ⟨ew, hw⟩ | ⟨ew, hw⟩ <;> rw [ev, ew] at hlt
  · omega
  · omega
  · have hf : ⌊v⌋ = ⌊w⌋ := by omega
    rw [hf] at hv
    have hvw : v = w := le_antisymm h (by linarith)
    subst hvw; rw [ev] at ew; omega
  · omega

omit [IsStrictOrderedRing K] in
/-- At a tie `round` is what the tie rule says. -/
theorem roundTo_tie (t : RoundTie) {v : K} (h : v - ⌊v⌋ = 1 / 2) :
    roundTo t v = match t with
      | .away => if v < 0 then ⌊v⌋ else ⌊v⌋ + 1
      | .up => ⌊v⌋ + 1
      | .even => if ⌊v⌋ % 2 = 0 then ⌊v⌋ else ⌊v⌋ + 1 := by
  cases t <;> simp [roundTo, h]

omit [FloorRing K] in
/-- `clamp` to `[-1, 1]`. -/
theorem clampTo_unit_bounds (v : K) : -1 ≤ clampTo v (-1) 1 ∧ clampTo v (-1) 1 ≤ 1 := by
  unfold clampTo
  have : (-1 : K) ≤ 1 := by linarith [zero_le_one (α := K)]
  split_ifs with h₁ h₂
  · exact ⟨le_rfl, this⟩
  · exact ⟨this, le_rfl⟩
  · exact ⟨not_lt.mp h₁, not_lt.mp h₂⟩

omit [FloorRing K] in
theorem scaled_bounds (v : K) : -32768 ≤ scaled v ∧ scaled v ≤ 32767 := by
  obtain ⟨h₁, h₂⟩ := clampTo_unit_bounds v
  unfold scaled
  simp only
  split_ifs with h
  · constructor <;> linarith
  · push Not at h
    constructor <;> linarith

omit [FloorRing K] in
theorem clampTo_mono {v w : K} (h : v ≤ w) : clampTo v (-1) 1 ≤ clampTo w (-1) 1 := by
  unfold clampTo
  split_ifs <;> linarith

omit [FloorRing K] in
theorem scaled_mono {v w : K} (h : v ≤ w) : scaled v ≤ scaled w := by
  have := clampTo_mono h
  unfold scaled
  simp only
  split_ifs with h₁ h₂ h₂ <;> linarith

omit [FloorRing K] in
theorem scaled_of_one_le {v : K} (h : 1 ≤ v) : scaled v = 32767 := by
  have hc : clampTo v (-1) 1 = 1 := by
    unfold clampTo
    split_ifs with h₁ h₂ <;> linarith
  simp [scaled, hc, not_lt.mpr (zero_le_one (α := K))]

omit [FloorRing K] in
theorem scaled_of_le_neg_one {v : K} (h : v ≤ -1) : scaled v = -32768 := by
  have hc : clampTo v (-1) 1 = -1 := by
    unfold clampTo
    split_ifs with h₁ h₂ <;> linarith
  simp [scaled, hc]

omit [FloorRing K] in
theorem scaled_of_neg {v : K} (h : v < 0) (h' : -1 ≤ v) : scaled v = v * 32768 := by
  have hc : clampTo v (-1) 1 = v := by
    unfold clampTo
    split_ifs with h₁ h₂ <;> linarith
  simp [scaled, hc, h]

omit [FloorRing K] in
theorem scaled_of_nonneg {v : K} (h : 0 ≤ v) (h' : v ≤ 1) : scaled v = v * 32767 := by
  have hc : clampTo v (-1) 1 = v := by
    unfold clampTo
    split_ifs with h₁ h₂ <;> linarith
  simp [scaled, hc, not_lt.mpr h]

/-- A code lies between two integers that the scaled value lies between. -/
theorem roundTo_between (t : RoundTie) {v : K} {a b : Int} (h₁ : (a : K) ≤ v) (h₂ : v ≤ (b : K)) : a ≤ roundTo t v ∧ roundTo t v ≤ b :=
  ⟨by simpa using roundTo_mono t h₁, by simpa using roundTo_mono t h₂⟩

end Sys2Proof.Machine
end

