-- ==== Sys2Proof/Laws/Memory.lean ====
section
/-! SUPPORT. The laws of a byte memory: a read after a write, and that every operation keeps the canonical form. -/

namespace Sys2Proof.Machine

@[simp] theorem Memory.read_nil (a : Nat) : Memory.read [] a = none := rfl

theorem Memory.read_eq_none_of_forall_ne {m : Memory} {a : Nat} (h : ∀ x ∈ m, x.1 ≠ a) : m.read a = none := by
  induction m with
  | nil => rfl
  | cons x rest ih =>
    obtain ⟨c, v⟩ := x
    have hc : a ≠ c := fun e => h (c, v) (by simp) e.symm
    simp only [Memory.read, if_neg hc]
    exact ih fun y hy => h y (by simp [hy])

/-- A read of the address just written answers the byte written. -/
@[simp] theorem Memory.read_write_same (m : Memory) (a : Nat) (b : BitVec 8) : (m.write a b).read a = some b := by
  induction m with
  | nil => simp [Memory.write, Memory.read]
  | cons x rest ih =>
    obtain ⟨c, v⟩ := x
    simp only [Memory.write]
    split_ifs with h₁ h₂
    · simp [Memory.read]
    · simp [Memory.read]
    · simpa [Memory.read, h₂] using ih

/-- A write leaves every other address alone. -/
theorem Memory.read_write_other (m : Memory) {a a' : Nat} (b : BitVec 8) (h : a' ≠ a) : (m.write a b).read a' = m.read a' := by
  induction m with
  | nil => simp [Memory.write, Memory.read, h]
  | cons x rest ih =>
    obtain ⟨c, v⟩ := x
    simp only [Memory.write]
    split_ifs with h₁ h₂
    · simp [Memory.read, h]
    · subst h₂; simp [Memory.read, h]
    · simp [Memory.read, ih]

/-- What a write lists: the new entry and nothing that was not listed. -/
theorem Memory.mem_write {m : Memory} {a : Nat} {b : BitVec 8} {x : Host.Cell} (h : x ∈ m.write a b) : x = (a, b) ∨ x ∈ m := by
  induction m with
  | nil => simpa [Memory.write] using h
  | cons y rest ih =>
    obtain ⟨c, v⟩ := y
    simp only [Memory.write] at h
    split_ifs at h with h₁ h₂
    · simpa using h
    · simp only [List.mem_cons] at h ⊢; tauto
    · simp only [List.mem_cons] at h ⊢
      rcases h with h | h
      · exact .inr (.inl h)
      · rcases ih h with h | h <;> tauto

/-- A write keeps the canonical form. -/
theorem Memory.wf_write {m : Memory} (hm : m.wf) (a : Nat) (b : BitVec 8) : (m.write a b).wf := by
  induction m with
  | nil => simp [Memory.write, Memory.wf]
  | cons x rest ih =>
    obtain ⟨c, v⟩ := x
    have hm' := List.pairwise_cons.mp hm
    simp only [Memory.write]
    split_ifs with h₁ h₂
    · refine List.pairwise_cons.mpr ⟨fun y hy => ?_, hm⟩
      rcases List.mem_cons.mp hy with rfl | hy
      · exact h₁
      · exact lt_trans h₁ (hm'.1 y hy)
    · subst h₂; exact List.pairwise_cons.mpr hm'
    · refine List.pairwise_cons.mpr ⟨fun y hy => ?_, ih hm'.2⟩
      rcases Memory.mem_write hy with rfl | hy
      · exact lt_of_le_of_ne (not_lt.mp h₁) (Ne.symm h₂)
      · exact hm'.1 y hy

/-- A run of writes keeps the canonical form. -/
theorem Memory.wf_writeList {m : Memory} (hm : m.wf) (a : Nat) (bs : List (BitVec 8)) : (m.writeList a bs).wf := by
  induction bs generalizing m a with
  | nil => exact hm
  | cons b bs ih => exact ih (Memory.wf_write hm a b) (a + 1)

/-- A run of writes leaves every address outside it alone. -/
theorem Memory.read_writeList_outside (m : Memory) {a a' : Nat} (bs : List (BitVec 8)) (h : a' < a ∨ a + bs.length ≤ a') :
    (m.writeList a bs).read a' = m.read a' := by
  induction bs generalizing m a with
  | nil => rfl
  | cons b bs ih =>
    simp only [List.length_cons] at h
    rw [Memory.writeList, ih (m := m.write a b) (by omega), Memory.read_write_other _ _ (by omega)]

/-- A run of writes leaves the list's bytes at consecutive addresses. -/
theorem Memory.read_writeList (m : Memory) (a : Nat) (bs : List (BitVec 8)) (k : Nat) (h : k < bs.length) :
    (m.writeList a bs).read (a + k) = some bs[k] := by
  induction bs generalizing m a k with
  | nil => simp at h
  | cons b bs ih =>
    cases k with
    | zero => rw [Memory.writeList, Memory.read_writeList_outside _ _ (.inl (by omega))]; simp
    | succ k =>
      rw [Memory.writeList, show a + (k + 1) = (a + 1) + k by omega, ih (m.write a b) (a + 1) k (by simpa using h)]
      simp

end Sys2Proof.Machine
end

