-- ==== Sys2Proof/Laws/State.lean ====
section
/-! SUPPORT. What each update of the state leaves in each field: one lemma per field per update, so that no later proof unfolds a record
update. -/

namespace Sys2Proof.Machine

@[simp] theorem State.playRow_status (s : State) (k : Fin 12) : (s.playRow k).status = s.status := rfl
@[simp] theorem State.playRow_sampleRate (s : State) (k : Fin 12) : (s.playRow k).sampleRate = s.sampleRate := rfl
@[simp] theorem State.playRow_toneDurUs (s : State) (k : Fin 12) : (s.playRow k).toneDurUs = s.toneDurUs := rfl
@[simp] theorem State.playRow_silenceDurUs (s : State) (k : Fin 12) : (s.playRow k).silenceDurUs = s.silenceDurUs := rfl
@[simp] theorem State.playRow_channels (s : State) (k : Fin 12) : (s.playRow k).channels = s.channels := rfl
@[simp] theorem State.playRow_bits (s : State) (k : Fin 12) : (s.playRow k).bits = s.bits := rfl
@[simp] theorem State.playRow_symCount (s : State) (k : Fin 12) : (s.playRow k).symCount = s.symCount := rfl
@[simp] theorem State.playRow_outLen (s : State) (k : Fin 12) : (s.playRow k).outLen = s.outLen := rfl
@[simp] theorem State.playRow_pc (s : State) (k : Fin 12) : (s.playRow k).pc = s.pc + 1 := rfl
@[simp] theorem State.playRow_j (s : State) (k : Fin 12) : (s.playRow k).j = lastIndex s.nsig s.nsil s.j := rfl
@[simp] theorem State.playRow_wp (s : State) (k : Fin 12) : (s.playRow k).wp = s.wp + s.blockLen := rfl
@[simp] theorem State.playRow_sym (s : State) (k : Fin 12) : (s.playRow k).sym = s.sym := rfl
@[simp] theorem State.playRow_link (s : State) (k : Fin 12) : (s.playRow k).link = s.link ++ block (romRow s.rom k) s.fs s.nsig s.nsil := rfl
@[simp] theorem State.playRow_out (s : State) (k : Fin 12) : (s.playRow k).out = s.out := rfl
@[simp] theorem State.playRow_rom (s : State) (k : Fin 12) : (s.playRow k).rom = s.rom := rfl
@[simp] theorem State.playRow_phase (s : State) (k : Fin 12) : (s.playRow k).phase = s.phase := rfl
@[simp] theorem State.playRow_pending (s : State) (k : Fin 12) : (s.playRow k).pending = s.pending := rfl
@[simp] theorem State.playRow_replies (s : State) (k : Fin 12) : (s.playRow k).replies = s.replies := rfl
@[simp] theorem State.playRow_resetCount (s : State) (k : Fin 12) : (s.playRow k).resetCount = s.resetCount := rfl
@[simp] theorem State.playRow_runCount (s : State) (k : Fin 12) : (s.playRow k).runCount = s.runCount := rfl
@[simp] theorem State.playRow_params (s : State) (k : Fin 12) : (s.playRow k).params = s.params := rfl

@[simp] theorem State.raiseError_status (s : State) (e : ErrorKind) : (s.raiseError e).status = withStatus s.status .error (errorCode e) := rfl
@[simp] theorem State.raiseError_sampleRate (s : State) (e : ErrorKind) : (s.raiseError e).sampleRate = s.sampleRate := rfl
@[simp] theorem State.raiseError_toneDurUs (s : State) (e : ErrorKind) : (s.raiseError e).toneDurUs = s.toneDurUs := rfl
@[simp] theorem State.raiseError_silenceDurUs (s : State) (e : ErrorKind) : (s.raiseError e).silenceDurUs = s.silenceDurUs := rfl
@[simp] theorem State.raiseError_channels (s : State) (e : ErrorKind) : (s.raiseError e).channels = s.channels := rfl
@[simp] theorem State.raiseError_bits (s : State) (e : ErrorKind) : (s.raiseError e).bits = s.bits := rfl
@[simp] theorem State.raiseError_symCount (s : State) (e : ErrorKind) : (s.raiseError e).symCount = s.symCount := rfl
@[simp] theorem State.raiseError_outLen (s : State) (e : ErrorKind) : (s.raiseError e).outLen = 0 := rfl
@[simp] theorem State.raiseError_pc (s : State) (e : ErrorKind) : (s.raiseError e).pc = s.pc := rfl
@[simp] theorem State.raiseError_j (s : State) (e : ErrorKind) : (s.raiseError e).j = s.j := rfl
@[simp] theorem State.raiseError_wp (s : State) (e : ErrorKind) : (s.raiseError e).wp = s.wp := rfl
@[simp] theorem State.raiseError_sym (s : State) (e : ErrorKind) : (s.raiseError e).sym = s.sym := rfl
@[simp] theorem State.raiseError_link (s : State) (e : ErrorKind) : (s.raiseError e).link = [] := rfl
@[simp] theorem State.raiseError_out (s : State) (e : ErrorKind) : (s.raiseError e).out = s.out := rfl
@[simp] theorem State.raiseError_rom (s : State) (e : ErrorKind) : (s.raiseError e).rom = s.rom := rfl
@[simp] theorem State.raiseError_phase (s : State) (e : ErrorKind) : (s.raiseError e).phase = .rest := rfl
@[simp] theorem State.raiseError_pending (s : State) (e : ErrorKind) : (s.raiseError e).pending = s.pending := rfl
@[simp] theorem State.raiseError_replies (s : State) (e : ErrorKind) : (s.raiseError e).replies = s.replies := rfl
@[simp] theorem State.raiseError_resetCount (s : State) (e : ErrorKind) : (s.raiseError e).resetCount = s.resetCount := rfl
@[simp] theorem State.raiseError_runCount (s : State) (e : ErrorKind) : (s.raiseError e).runCount = s.runCount := rfl
@[simp] theorem State.raiseError_params (s : State) (e : ErrorKind) : (s.raiseError e).params = s.params := rfl

@[simp] theorem State.launch_status (s : State) : (s.launch).status = withStatus s.status .busy 0 := rfl
@[simp] theorem State.launch_sampleRate (s : State) : (s.launch).sampleRate = s.sampleRate := rfl
@[simp] theorem State.launch_toneDurUs (s : State) : (s.launch).toneDurUs = s.toneDurUs := rfl
@[simp] theorem State.launch_silenceDurUs (s : State) : (s.launch).silenceDurUs = s.silenceDurUs := rfl
@[simp] theorem State.launch_channels (s : State) : (s.launch).channels = s.channels := rfl
@[simp] theorem State.launch_bits (s : State) : (s.launch).bits = s.bits := rfl
@[simp] theorem State.launch_symCount (s : State) : (s.launch).symCount = s.symCount := rfl
@[simp] theorem State.launch_outLen (s : State) : (s.launch).outLen = s.outLen := rfl
@[simp] theorem State.launch_pc (s : State) : (s.launch).pc = s.pc := rfl
@[simp] theorem State.launch_j (s : State) : (s.launch).j = s.j := rfl
@[simp] theorem State.launch_wp (s : State) : (s.launch).wp = s.wp := rfl
@[simp] theorem State.launch_sym (s : State) : (s.launch).sym = s.sym := rfl
@[simp] theorem State.launch_link (s : State) : (s.launch).link = [] := rfl
@[simp] theorem State.launch_out (s : State) : (s.launch).out = s.out := rfl
@[simp] theorem State.launch_rom (s : State) : (s.launch).rom = s.rom := rfl
@[simp] theorem State.launch_phase (s : State) : (s.launch).phase = .check := rfl
@[simp] theorem State.launch_pending (s : State) : (s.launch).pending = s.pending := rfl
@[simp] theorem State.launch_replies (s : State) : (s.launch).replies = s.replies := rfl
@[simp] theorem State.launch_resetCount (s : State) : (s.launch).resetCount = s.resetCount := rfl
@[simp] theorem State.launch_runCount (s : State) : (s.launch).runCount = s.runCount + 1 := rfl
@[simp] theorem State.launch_params (s : State) : (s.launch).params = s.params := rfl

@[simp] theorem State.beginValidate_status (s : State) : (s.beginValidate).status = s.status := rfl
@[simp] theorem State.beginValidate_sampleRate (s : State) : (s.beginValidate).sampleRate = s.sampleRate := rfl
@[simp] theorem State.beginValidate_toneDurUs (s : State) : (s.beginValidate).toneDurUs = s.toneDurUs := rfl
@[simp] theorem State.beginValidate_silenceDurUs (s : State) : (s.beginValidate).silenceDurUs = s.silenceDurUs := rfl
@[simp] theorem State.beginValidate_channels (s : State) : (s.beginValidate).channels = s.channels := rfl
@[simp] theorem State.beginValidate_bits (s : State) : (s.beginValidate).bits = s.bits := rfl
@[simp] theorem State.beginValidate_symCount (s : State) : (s.beginValidate).symCount = s.symCount := rfl
@[simp] theorem State.beginValidate_outLen (s : State) : (s.beginValidate).outLen = s.outLen := rfl
@[simp] theorem State.beginValidate_pc (s : State) : (s.beginValidate).pc = s.pc := rfl
@[simp] theorem State.beginValidate_j (s : State) : (s.beginValidate).j = s.j := rfl
@[simp] theorem State.beginValidate_wp (s : State) : (s.beginValidate).wp = s.wp := rfl
@[simp] theorem State.beginValidate_sym (s : State) : (s.beginValidate).sym = s.sym := rfl
@[simp] theorem State.beginValidate_link (s : State) : (s.beginValidate).link = s.link := rfl
@[simp] theorem State.beginValidate_out (s : State) : (s.beginValidate).out = s.out := rfl
@[simp] theorem State.beginValidate_rom (s : State) : (s.beginValidate).rom = s.rom := rfl
@[simp] theorem State.beginValidate_phase (s : State) : (s.beginValidate).phase = .validate := rfl
@[simp] theorem State.beginValidate_pending (s : State) : (s.beginValidate).pending = s.pending := rfl
@[simp] theorem State.beginValidate_replies (s : State) : (s.beginValidate).replies = s.replies := rfl
@[simp] theorem State.beginValidate_resetCount (s : State) : (s.beginValidate).resetCount = s.resetCount := rfl
@[simp] theorem State.beginValidate_runCount (s : State) : (s.beginValidate).runCount = s.runCount := rfl
@[simp] theorem State.beginValidate_params (s : State) : (s.beginValidate).params = s.params := rfl

@[simp] theorem State.beginGenerate_status (s : State) : (s.beginGenerate).status = s.status := rfl
@[simp] theorem State.beginGenerate_sampleRate (s : State) : (s.beginGenerate).sampleRate = s.sampleRate := rfl
@[simp] theorem State.beginGenerate_toneDurUs (s : State) : (s.beginGenerate).toneDurUs = s.toneDurUs := rfl
@[simp] theorem State.beginGenerate_silenceDurUs (s : State) : (s.beginGenerate).silenceDurUs = s.silenceDurUs := rfl
@[simp] theorem State.beginGenerate_channels (s : State) : (s.beginGenerate).channels = s.channels := rfl
@[simp] theorem State.beginGenerate_bits (s : State) : (s.beginGenerate).bits = s.bits := rfl
@[simp] theorem State.beginGenerate_symCount (s : State) : (s.beginGenerate).symCount = s.symCount := rfl
@[simp] theorem State.beginGenerate_outLen (s : State) : (s.beginGenerate).outLen = s.outLen := rfl
@[simp] theorem State.beginGenerate_pc (s : State) : (s.beginGenerate).pc = 0 := rfl
@[simp] theorem State.beginGenerate_j (s : State) : (s.beginGenerate).j = s.j := rfl
@[simp] theorem State.beginGenerate_wp (s : State) : (s.beginGenerate).wp = 0 := rfl
@[simp] theorem State.beginGenerate_sym (s : State) : (s.beginGenerate).sym = s.sym := rfl
@[simp] theorem State.beginGenerate_link (s : State) : (s.beginGenerate).link = s.link := rfl
@[simp] theorem State.beginGenerate_out (s : State) : (s.beginGenerate).out = s.out := rfl
@[simp] theorem State.beginGenerate_rom (s : State) : (s.beginGenerate).rom = s.rom := rfl
@[simp] theorem State.beginGenerate_phase (s : State) : (s.beginGenerate).phase = .generate := rfl
@[simp] theorem State.beginGenerate_pending (s : State) : (s.beginGenerate).pending = s.pending := rfl
@[simp] theorem State.beginGenerate_replies (s : State) : (s.beginGenerate).replies = s.replies := rfl
@[simp] theorem State.beginGenerate_resetCount (s : State) : (s.beginGenerate).resetCount = s.resetCount := rfl
@[simp] theorem State.beginGenerate_runCount (s : State) : (s.beginGenerate).runCount = s.runCount := rfl
@[simp] theorem State.beginGenerate_params (s : State) : (s.beginGenerate).params = s.params := rfl

@[simp] theorem State.beginEncode_status (s : State) : (s.beginEncode).status = s.status := rfl
@[simp] theorem State.beginEncode_sampleRate (s : State) : (s.beginEncode).sampleRate = s.sampleRate := rfl
@[simp] theorem State.beginEncode_toneDurUs (s : State) : (s.beginEncode).toneDurUs = s.toneDurUs := rfl
@[simp] theorem State.beginEncode_silenceDurUs (s : State) : (s.beginEncode).silenceDurUs = s.silenceDurUs := rfl
@[simp] theorem State.beginEncode_channels (s : State) : (s.beginEncode).channels = s.channels := rfl
@[simp] theorem State.beginEncode_bits (s : State) : (s.beginEncode).bits = s.bits := rfl
@[simp] theorem State.beginEncode_symCount (s : State) : (s.beginEncode).symCount = s.symCount := rfl
@[simp] theorem State.beginEncode_outLen (s : State) : (s.beginEncode).outLen = s.outLen := rfl
@[simp] theorem State.beginEncode_pc (s : State) : (s.beginEncode).pc = s.pc := rfl
@[simp] theorem State.beginEncode_j (s : State) : (s.beginEncode).j = s.j := rfl
@[simp] theorem State.beginEncode_wp (s : State) : (s.beginEncode).wp = 0 := rfl
@[simp] theorem State.beginEncode_sym (s : State) : (s.beginEncode).sym = s.sym := rfl
@[simp] theorem State.beginEncode_link (s : State) : (s.beginEncode).link = s.link := rfl
@[simp] theorem State.beginEncode_out (s : State) : (s.beginEncode).out = s.out := rfl
@[simp] theorem State.beginEncode_rom (s : State) : (s.beginEncode).rom = s.rom := rfl
@[simp] theorem State.beginEncode_phase (s : State) : (s.beginEncode).phase = .encode := rfl
@[simp] theorem State.beginEncode_pending (s : State) : (s.beginEncode).pending = s.pending := rfl
@[simp] theorem State.beginEncode_replies (s : State) : (s.beginEncode).replies = s.replies := rfl
@[simp] theorem State.beginEncode_resetCount (s : State) : (s.beginEncode).resetCount = s.resetCount := rfl
@[simp] theorem State.beginEncode_runCount (s : State) : (s.beginEncode).runCount = s.runCount := rfl
@[simp] theorem State.beginEncode_params (s : State) : (s.beginEncode).params = s.params := rfl

@[simp] theorem State.writeContainer_status (s : State) (bytes : List Byte) : (s.writeContainer bytes).status = s.status := rfl
@[simp] theorem State.writeContainer_sampleRate (s : State) (bytes : List Byte) : (s.writeContainer bytes).sampleRate = s.sampleRate := rfl
@[simp] theorem State.writeContainer_toneDurUs (s : State) (bytes : List Byte) : (s.writeContainer bytes).toneDurUs = s.toneDurUs := rfl
@[simp] theorem State.writeContainer_silenceDurUs (s : State) (bytes : List Byte) : (s.writeContainer bytes).silenceDurUs = s.silenceDurUs := rfl
@[simp] theorem State.writeContainer_channels (s : State) (bytes : List Byte) : (s.writeContainer bytes).channels = s.channels := rfl
@[simp] theorem State.writeContainer_bits (s : State) (bytes : List Byte) : (s.writeContainer bytes).bits = s.bits := rfl
@[simp] theorem State.writeContainer_symCount (s : State) (bytes : List Byte) : (s.writeContainer bytes).symCount = s.symCount := rfl
@[simp] theorem State.writeContainer_outLen (s : State) (bytes : List Byte) : (s.writeContainer bytes).outLen = s.outLen := rfl
@[simp] theorem State.writeContainer_pc (s : State) (bytes : List Byte) : (s.writeContainer bytes).pc = s.pc := rfl
@[simp] theorem State.writeContainer_j (s : State) (bytes : List Byte) : (s.writeContainer bytes).j = s.j := rfl
@[simp] theorem State.writeContainer_wp (s : State) (bytes : List Byte) : (s.writeContainer bytes).wp = bytes.length := rfl
@[simp] theorem State.writeContainer_sym (s : State) (bytes : List Byte) : (s.writeContainer bytes).sym = s.sym := rfl
@[simp] theorem State.writeContainer_link (s : State) (bytes : List Byte) : (s.writeContainer bytes).link = s.link := rfl
@[simp] theorem State.writeContainer_out (s : State) (bytes : List Byte) : (s.writeContainer bytes).out = s.out.writeList 0 bytes := rfl
@[simp] theorem State.writeContainer_rom (s : State) (bytes : List Byte) : (s.writeContainer bytes).rom = s.rom := rfl
@[simp] theorem State.writeContainer_phase (s : State) (bytes : List Byte) : (s.writeContainer bytes).phase = .complete := rfl
@[simp] theorem State.writeContainer_pending (s : State) (bytes : List Byte) : (s.writeContainer bytes).pending = s.pending := rfl
@[simp] theorem State.writeContainer_replies (s : State) (bytes : List Byte) : (s.writeContainer bytes).replies = s.replies := rfl
@[simp] theorem State.writeContainer_resetCount (s : State) (bytes : List Byte) : (s.writeContainer bytes).resetCount = s.resetCount := rfl
@[simp] theorem State.writeContainer_runCount (s : State) (bytes : List Byte) : (s.writeContainer bytes).runCount = s.runCount := rfl
@[simp] theorem State.writeContainer_params (s : State) (bytes : List Byte) : (s.writeContainer bytes).params = s.params := rfl

@[simp] theorem State.finish_status (s : State) : (s.finish).status = withStatus s.status .done 0 := rfl
@[simp] theorem State.finish_sampleRate (s : State) : (s.finish).sampleRate = s.sampleRate := rfl
@[simp] theorem State.finish_toneDurUs (s : State) : (s.finish).toneDurUs = s.toneDurUs := rfl
@[simp] theorem State.finish_silenceDurUs (s : State) : (s.finish).silenceDurUs = s.silenceDurUs := rfl
@[simp] theorem State.finish_channels (s : State) : (s.finish).channels = s.channels := rfl
@[simp] theorem State.finish_bits (s : State) : (s.finish).bits = s.bits := rfl
@[simp] theorem State.finish_symCount (s : State) : (s.finish).symCount = s.symCount := rfl
@[simp] theorem State.finish_outLen (s : State) : (s.finish).outLen = BitVec.ofNat 32 (containerLength s.link.length) := rfl
@[simp] theorem State.finish_pc (s : State) : (s.finish).pc = s.pc := rfl
@[simp] theorem State.finish_j (s : State) : (s.finish).j = s.j := rfl
@[simp] theorem State.finish_wp (s : State) : (s.finish).wp = s.wp := rfl
@[simp] theorem State.finish_sym (s : State) : (s.finish).sym = s.sym := rfl
@[simp] theorem State.finish_link (s : State) : (s.finish).link = [] := rfl
@[simp] theorem State.finish_out (s : State) : (s.finish).out = s.out := rfl
@[simp] theorem State.finish_rom (s : State) : (s.finish).rom = s.rom := rfl
@[simp] theorem State.finish_phase (s : State) : (s.finish).phase = .rest := rfl
@[simp] theorem State.finish_pending (s : State) : (s.finish).pending = s.pending := rfl
@[simp] theorem State.finish_replies (s : State) : (s.finish).replies = s.replies := rfl
@[simp] theorem State.finish_resetCount (s : State) : (s.finish).resetCount = s.resetCount := rfl
@[simp] theorem State.finish_runCount (s : State) : (s.finish).runCount = s.runCount := rfl
@[simp] theorem State.finish_params (s : State) : (s.finish).params = s.params := rfl

@[simp] theorem State.reply_status (s : State) (v : Word) : (s.reply v).status = s.status := rfl
@[simp] theorem State.reply_sampleRate (s : State) (v : Word) : (s.reply v).sampleRate = s.sampleRate := rfl
@[simp] theorem State.reply_toneDurUs (s : State) (v : Word) : (s.reply v).toneDurUs = s.toneDurUs := rfl
@[simp] theorem State.reply_silenceDurUs (s : State) (v : Word) : (s.reply v).silenceDurUs = s.silenceDurUs := rfl
@[simp] theorem State.reply_channels (s : State) (v : Word) : (s.reply v).channels = s.channels := rfl
@[simp] theorem State.reply_bits (s : State) (v : Word) : (s.reply v).bits = s.bits := rfl
@[simp] theorem State.reply_symCount (s : State) (v : Word) : (s.reply v).symCount = s.symCount := rfl
@[simp] theorem State.reply_outLen (s : State) (v : Word) : (s.reply v).outLen = s.outLen := rfl
@[simp] theorem State.reply_pc (s : State) (v : Word) : (s.reply v).pc = s.pc := rfl
@[simp] theorem State.reply_j (s : State) (v : Word) : (s.reply v).j = s.j := rfl
@[simp] theorem State.reply_wp (s : State) (v : Word) : (s.reply v).wp = s.wp := rfl
@[simp] theorem State.reply_sym (s : State) (v : Word) : (s.reply v).sym = s.sym := rfl
@[simp] theorem State.reply_link (s : State) (v : Word) : (s.reply v).link = s.link := rfl
@[simp] theorem State.reply_out (s : State) (v : Word) : (s.reply v).out = s.out := rfl
@[simp] theorem State.reply_rom (s : State) (v : Word) : (s.reply v).rom = s.rom := rfl
@[simp] theorem State.reply_phase (s : State) (v : Word) : (s.reply v).phase = s.phase := rfl
@[simp] theorem State.reply_pending (s : State) (v : Word) : (s.reply v).pending = s.pending := rfl
@[simp] theorem State.reply_replies (s : State) (v : Word) : (s.reply v).replies = v :: s.replies := rfl
@[simp] theorem State.reply_resetCount (s : State) (v : Word) : (s.reply v).resetCount = s.resetCount := rfl
@[simp] theorem State.reply_runCount (s : State) (v : Word) : (s.reply v).runCount = s.runCount := rfl
@[simp] theorem State.reply_params (s : State) (v : Word) : (s.reply v).params = s.params := rfl

@[simp] theorem State.setPending_status (s : State) (p : List HostAction) : (s.setPending p).status = s.status := rfl
@[simp] theorem State.setPending_sampleRate (s : State) (p : List HostAction) : (s.setPending p).sampleRate = s.sampleRate := rfl
@[simp] theorem State.setPending_toneDurUs (s : State) (p : List HostAction) : (s.setPending p).toneDurUs = s.toneDurUs := rfl
@[simp] theorem State.setPending_silenceDurUs (s : State) (p : List HostAction) : (s.setPending p).silenceDurUs = s.silenceDurUs := rfl
@[simp] theorem State.setPending_channels (s : State) (p : List HostAction) : (s.setPending p).channels = s.channels := rfl
@[simp] theorem State.setPending_bits (s : State) (p : List HostAction) : (s.setPending p).bits = s.bits := rfl
@[simp] theorem State.setPending_symCount (s : State) (p : List HostAction) : (s.setPending p).symCount = s.symCount := rfl
@[simp] theorem State.setPending_outLen (s : State) (p : List HostAction) : (s.setPending p).outLen = s.outLen := rfl
@[simp] theorem State.setPending_pc (s : State) (p : List HostAction) : (s.setPending p).pc = s.pc := rfl
@[simp] theorem State.setPending_j (s : State) (p : List HostAction) : (s.setPending p).j = s.j := rfl
@[simp] theorem State.setPending_wp (s : State) (p : List HostAction) : (s.setPending p).wp = s.wp := rfl
@[simp] theorem State.setPending_sym (s : State) (p : List HostAction) : (s.setPending p).sym = s.sym := rfl
@[simp] theorem State.setPending_link (s : State) (p : List HostAction) : (s.setPending p).link = s.link := rfl
@[simp] theorem State.setPending_out (s : State) (p : List HostAction) : (s.setPending p).out = s.out := rfl
@[simp] theorem State.setPending_rom (s : State) (p : List HostAction) : (s.setPending p).rom = s.rom := rfl
@[simp] theorem State.setPending_phase (s : State) (p : List HostAction) : (s.setPending p).phase = s.phase := rfl
@[simp] theorem State.setPending_pending (s : State) (p : List HostAction) : (s.setPending p).pending = p := rfl
@[simp] theorem State.setPending_replies (s : State) (p : List HostAction) : (s.setPending p).replies = s.replies := rfl
@[simp] theorem State.setPending_resetCount (s : State) (p : List HostAction) : (s.setPending p).resetCount = s.resetCount := rfl
@[simp] theorem State.setPending_runCount (s : State) (p : List HostAction) : (s.setPending p).runCount = s.runCount := rfl
@[simp] theorem State.setPending_params (s : State) (p : List HostAction) : (s.setPending p).params = s.params := rfl

@[simp] theorem State.setSym_status (s : State) (a : Nat) (c : Byte) : (s.setSym a c).status = s.status := rfl
@[simp] theorem State.setSym_sampleRate (s : State) (a : Nat) (c : Byte) : (s.setSym a c).sampleRate = s.sampleRate := rfl
@[simp] theorem State.setSym_toneDurUs (s : State) (a : Nat) (c : Byte) : (s.setSym a c).toneDurUs = s.toneDurUs := rfl
@[simp] theorem State.setSym_silenceDurUs (s : State) (a : Nat) (c : Byte) : (s.setSym a c).silenceDurUs = s.silenceDurUs := rfl
@[simp] theorem State.setSym_channels (s : State) (a : Nat) (c : Byte) : (s.setSym a c).channels = s.channels := rfl
@[simp] theorem State.setSym_bits (s : State) (a : Nat) (c : Byte) : (s.setSym a c).bits = s.bits := rfl
@[simp] theorem State.setSym_symCount (s : State) (a : Nat) (c : Byte) : (s.setSym a c).symCount = s.symCount := rfl
@[simp] theorem State.setSym_outLen (s : State) (a : Nat) (c : Byte) : (s.setSym a c).outLen = s.outLen := rfl
@[simp] theorem State.setSym_pc (s : State) (a : Nat) (c : Byte) : (s.setSym a c).pc = s.pc := rfl
@[simp] theorem State.setSym_j (s : State) (a : Nat) (c : Byte) : (s.setSym a c).j = s.j := rfl
@[simp] theorem State.setSym_wp (s : State) (a : Nat) (c : Byte) : (s.setSym a c).wp = s.wp := rfl
@[simp] theorem State.setSym_sym (s : State) (a : Nat) (c : Byte) : (s.setSym a c).sym = s.sym.write a c := rfl
@[simp] theorem State.setSym_link (s : State) (a : Nat) (c : Byte) : (s.setSym a c).link = s.link := rfl
@[simp] theorem State.setSym_out (s : State) (a : Nat) (c : Byte) : (s.setSym a c).out = s.out := rfl
@[simp] theorem State.setSym_rom (s : State) (a : Nat) (c : Byte) : (s.setSym a c).rom = s.rom := rfl
@[simp] theorem State.setSym_phase (s : State) (a : Nat) (c : Byte) : (s.setSym a c).phase = s.phase := rfl
@[simp] theorem State.setSym_pending (s : State) (a : Nat) (c : Byte) : (s.setSym a c).pending = s.pending := rfl
@[simp] theorem State.setSym_replies (s : State) (a : Nat) (c : Byte) : (s.setSym a c).replies = s.replies := rfl
@[simp] theorem State.setSym_resetCount (s : State) (a : Nat) (c : Byte) : (s.setSym a c).resetCount = s.resetCount := rfl
@[simp] theorem State.setSym_runCount (s : State) (a : Nat) (c : Byte) : (s.setSym a c).runCount = s.runCount := rfl
@[simp] theorem State.setSym_params (s : State) (a : Nat) (c : Byte) : (s.setSym a c).params = s.params := rfl

@[simp] theorem State.resetAll_status (s : State) : (s.resetAll).status = State.reset.status := rfl
@[simp] theorem State.resetAll_sampleRate (s : State) : (s.resetAll).sampleRate = State.reset.sampleRate := rfl
@[simp] theorem State.resetAll_toneDurUs (s : State) : (s.resetAll).toneDurUs = State.reset.toneDurUs := rfl
@[simp] theorem State.resetAll_silenceDurUs (s : State) : (s.resetAll).silenceDurUs = State.reset.silenceDurUs := rfl
@[simp] theorem State.resetAll_channels (s : State) : (s.resetAll).channels = State.reset.channels := rfl
@[simp] theorem State.resetAll_bits (s : State) : (s.resetAll).bits = State.reset.bits := rfl
@[simp] theorem State.resetAll_symCount (s : State) : (s.resetAll).symCount = State.reset.symCount := rfl
@[simp] theorem State.resetAll_outLen (s : State) : (s.resetAll).outLen = State.reset.outLen := rfl
@[simp] theorem State.resetAll_pc (s : State) : (s.resetAll).pc = State.reset.pc := rfl
@[simp] theorem State.resetAll_j (s : State) : (s.resetAll).j = State.reset.j := rfl
@[simp] theorem State.resetAll_wp (s : State) : (s.resetAll).wp = State.reset.wp := rfl
@[simp] theorem State.resetAll_sym (s : State) : (s.resetAll).sym = State.reset.sym := rfl
@[simp] theorem State.resetAll_link (s : State) : (s.resetAll).link = State.reset.link := rfl
@[simp] theorem State.resetAll_out (s : State) : (s.resetAll).out = State.reset.out := rfl
@[simp] theorem State.resetAll_rom (s : State) : (s.resetAll).rom = State.reset.rom := rfl
@[simp] theorem State.resetAll_phase (s : State) : (s.resetAll).phase = State.reset.phase := rfl
@[simp] theorem State.resetAll_pending (s : State) : (s.resetAll).pending = s.pending := rfl
@[simp] theorem State.resetAll_replies (s : State) : (s.resetAll).replies = s.replies := rfl
@[simp] theorem State.resetAll_resetCount (s : State) : (s.resetAll).resetCount = s.resetCount + 1 := rfl
@[simp] theorem State.resetAll_runCount (s : State) : (s.resetAll).runCount = s.runCount + 1 := rfl
@[simp] theorem State.resetAll_params (s : State) : (s.resetAll).params = s.params := rfl

@[simp] theorem State.placeCommand_status (s : State) (v : Word) : (s.placeCommand v).status = s.status := rfl
@[simp] theorem State.placeCommand_sampleRate (s : State) (v : Word) : (s.placeCommand v).sampleRate = s.sampleRate := rfl
@[simp] theorem State.placeCommand_toneDurUs (s : State) (v : Word) : (s.placeCommand v).toneDurUs = s.toneDurUs := rfl
@[simp] theorem State.placeCommand_silenceDurUs (s : State) (v : Word) : (s.placeCommand v).silenceDurUs = s.silenceDurUs := rfl
@[simp] theorem State.placeCommand_channels (s : State) (v : Word) : (s.placeCommand v).channels = s.channels := rfl
@[simp] theorem State.placeCommand_bits (s : State) (v : Word) : (s.placeCommand v).bits = s.bits := rfl
@[simp] theorem State.placeCommand_symCount (s : State) (v : Word) : (s.placeCommand v).symCount = s.symCount := rfl
@[simp] theorem State.placeCommand_outLen (s : State) (v : Word) : (s.placeCommand v).outLen = s.outLen := rfl
@[simp] theorem State.placeCommand_pc (s : State) (v : Word) : (s.placeCommand v).pc = s.pc := rfl
@[simp] theorem State.placeCommand_j (s : State) (v : Word) : (s.placeCommand v).j = s.j := rfl
@[simp] theorem State.placeCommand_wp (s : State) (v : Word) : (s.placeCommand v).wp = s.wp := rfl
@[simp] theorem State.placeCommand_sym (s : State) (v : Word) : (s.placeCommand v).sym = s.sym := rfl
@[simp] theorem State.placeCommand_link (s : State) (v : Word) : (s.placeCommand v).link = s.link := rfl
@[simp] theorem State.placeCommand_out (s : State) (v : Word) : (s.placeCommand v).out = s.out := rfl
@[simp] theorem State.placeCommand_rom (s : State) (v : Word) : (s.placeCommand v).rom = s.rom := rfl
@[simp] theorem State.placeCommand_phase (s : State) (v : Word) : (s.placeCommand v).phase = s.phase := rfl
@[simp] theorem State.placeCommand_pending (s : State) (v : Word) : (s.placeCommand v).pending = .writeReg 0 v :: s.pending := rfl
@[simp] theorem State.placeCommand_replies (s : State) (v : Word) : (s.placeCommand v).replies = s.replies := rfl
@[simp] theorem State.placeCommand_resetCount (s : State) (v : Word) : (s.placeCommand v).resetCount = s.resetCount := rfl
@[simp] theorem State.placeCommand_runCount (s : State) (v : Word) : (s.placeCommand v).runCount = s.runCount := rfl
@[simp] theorem State.placeCommand_params (s : State) (v : Word) : (s.placeCommand v).params = s.params := rfl

@[simp] theorem State.setReg_status (s : State) (n : Nat) (v : Word) : (s.setReg n v).status = s.status := by
  unfold State.setReg; split <;> rfl
@[simp] theorem State.setReg_outLen (s : State) (n : Nat) (v : Word) : (s.setReg n v).outLen = s.outLen := by
  unfold State.setReg; split <;> rfl
@[simp] theorem State.setReg_pc (s : State) (n : Nat) (v : Word) : (s.setReg n v).pc = s.pc := by
  unfold State.setReg; split <;> rfl
@[simp] theorem State.setReg_j (s : State) (n : Nat) (v : Word) : (s.setReg n v).j = s.j := by
  unfold State.setReg; split <;> rfl
@[simp] theorem State.setReg_wp (s : State) (n : Nat) (v : Word) : (s.setReg n v).wp = s.wp := by
  unfold State.setReg; split <;> rfl
@[simp] theorem State.setReg_sym (s : State) (n : Nat) (v : Word) : (s.setReg n v).sym = s.sym := by
  unfold State.setReg; split <;> rfl
@[simp] theorem State.setReg_link (s : State) (n : Nat) (v : Word) : (s.setReg n v).link = s.link := by
  unfold State.setReg; split <;> rfl
@[simp] theorem State.setReg_out (s : State) (n : Nat) (v : Word) : (s.setReg n v).out = s.out := by
  unfold State.setReg; split <;> rfl
@[simp] theorem State.setReg_rom (s : State) (n : Nat) (v : Word) : (s.setReg n v).rom = s.rom := by
  unfold State.setReg; split <;> rfl
@[simp] theorem State.setReg_phase (s : State) (n : Nat) (v : Word) : (s.setReg n v).phase = s.phase := by
  unfold State.setReg; split <;> rfl
@[simp] theorem State.setReg_pending (s : State) (n : Nat) (v : Word) : (s.setReg n v).pending = s.pending := by
  unfold State.setReg; split <;> rfl
@[simp] theorem State.setReg_replies (s : State) (n : Nat) (v : Word) : (s.setReg n v).replies = s.replies := by
  unfold State.setReg; split <;> rfl
@[simp] theorem State.setReg_resetCount (s : State) (n : Nat) (v : Word) : (s.setReg n v).resetCount = s.resetCount := by
  unfold State.setReg; split <;> rfl
@[simp] theorem State.setReg_runCount (s : State) (n : Nat) (v : Word) : (s.setReg n v).runCount = s.runCount := by
  unfold State.setReg; split <;> rfl
@[simp] theorem State.setReg_params (s : State) (n : Nat) (v : Word) : (s.setReg n v).params = s.params := by
  unfold State.setReg; split <;> rfl
@[simp] theorem State.setReg_2 (s : State) (v : Word) : s.setReg 2 v = { s with sampleRate := v } := rfl
@[simp] theorem State.setReg_3 (s : State) (v : Word) : s.setReg 3 v = { s with toneDurUs := v } := rfl
@[simp] theorem State.setReg_4 (s : State) (v : Word) : s.setReg 4 v = { s with silenceDurUs := v } := rfl
@[simp] theorem State.setReg_5 (s : State) (v : Word) : s.setReg 5 v = { s with channels := v.setWidth 16 } := rfl
@[simp] theorem State.setReg_6 (s : State) (v : Word) : s.setReg 6 v = { s with bits := v.setWidth 16 } := rfl
@[simp] theorem State.setReg_7 (s : State) (v : Word) : s.setReg 7 v = { s with symCount := v } := rfl

end Sys2Proof.Machine
end

