-- ==== Sys2Proof/Laws/Status.lean ====
section
/-! SUPPORT. The fields of a status word after it is written (R22). -/

namespace Sys2Proof.Machine

section
variable {n m k : Nat} (r : BitVec n) (e : BitVec m) (c : BitVec k)

theorem append_low : BitVec.extractLsb' 0 k (r ++ e ++ c) = c := by
  ext i hi
  simp [BitVec.getLsbD_append, hi, BitVec.getLsbD_eq_getElem]

theorem append_middle : BitVec.extractLsb' k m (r ++ e ++ c) = e := by
  ext i hi
  simp [BitVec.getLsbD_append, hi, BitVec.getLsbD_eq_getElem]

theorem append_high : BitVec.extractLsb' (k + m) n (r ++ e ++ c) = r := by
  ext i hi
  simp [BitVec.getLsbD_append, hi, BitVec.getLsbD_eq_getElem, show ¬ k + m + i < k by omega, show ¬ k + m + i - k < m by omega,
    show k + m + i - k - m = i by omega]

theorem append_fields (x : BitVec (n + m + k)) :
    x = BitVec.extractLsb' (k + m) n x ++ BitVec.extractLsb' k m x ++ BitVec.extractLsb' 0 k x := by
  refine BitVec.eq_of_getLsbD_eq fun i hi => ?_
  simp only [BitVec.getLsbD_append, BitVec.getLsbD_extractLsb']
  split_ifs with h h'
  · simp [h]
  · simp [h', show k + (i - k) = i by omega]
  · simp [show i - k - m < n by omega, show k + m + (i - k - m) = i by omega]

end

@[simp] theorem stateField_withStatus (w : Word) (st : RunState) (e : BitVec 2) : stateField (withStatus w st e) = runStateCode st :=
  append_low _ _ _

@[simp] theorem errField_withStatus (w : Word) (st : RunState) (e : BitVec 2) : errField (withStatus w st e) = e :=
  append_middle _ _ _

@[simp] theorem reservedField_withStatus (w : Word) (st : RunState) (e : BitVec 2) :
    reservedField (withStatus w st e) = reservedField w :=
  append_high _ _ _

@[simp] theorem runStateOf_withStatus (w : Word) (st : RunState) (e : BitVec 2) : runStateOf (withStatus w st e) = st := by
  cases st <;> simp [runStateOf, runStateCode]

/-- A status word is its three fields. -/
theorem status_ext {v w : Word} (h₁ : stateField v = stateField w) (h₂ : errField v = errField w)
    (h₃ : reservedField v = reservedField w) : v = w := by
  have split (x : Word) : x = reservedField x ++ errField x ++ stateField x := append_fields (n := 28) (m := 2) (k := 2) x
  rw [split v, split w, h₁, h₂, h₃]

@[simp] theorem State.runState_raiseError (s : State) (e : ErrorKind) : (s.raiseError e).runState = .error := by
  simp [State.runState]

@[simp] theorem State.runState_launch (s : State) : s.launch.runState = .busy := by simp [State.runState]

@[simp] theorem State.runState_finish (s : State) : s.finish.runState = .done := by simp [State.runState]

theorem State.runState_congr {s t : State} (h : t.status = s.status) : t.runState = s.runState := by
  simp [State.runState, h]

theorem State.busy_congr {s t : State} (h : t.status = s.status) : t.busy = s.busy := by
  simp [State.busy, State.runState, h]

theorem State.busy_eq_true_iff (s : State) : s.busy = true ↔ s.runState = .busy := by simp [State.busy]

theorem State.busy_eq_false_iff (s : State) : s.busy = false ↔ s.runState ≠ .busy := by
  simp [State.busy]

end Sys2Proof.Machine
end

