-- ==== Sys2Proof/Laws/Ops.lean ====
section
/-! SUPPORT. For each shared operation, once, everything it can do; later proofs cite these and do not unfold. -/

namespace Sys2Proof.Machine

/-! Symbols and ROM. -/

/-- ROM's rows are the constant table in every state. -/
@[simp] theorem romRow_eq (r : Rom) (k : Fin 12) : romRow r k = romTable[k] := by
  obtain ⟨rows, h⟩ := r
  subst h
  rfl

theorem rom_subsingleton (r r' : Rom) : r = r' := by
  obtain ⟨rows, h⟩ := r
  obtain ⟨rows', h'⟩ := r'
  subst h; subst h'; rfl

/-- A symbol is an instruction with a row of ROM. -/
theorem isSymbol_iff_row (i : Instr) : i.isSymbol = true ↔ ∃ k, toneRowOf i = some k := by
  cases i <;> simp [Instr.isSymbol, toneRowOf]

/-- Every symbol plays its own row; START begins a request, is ignored while BUSY, or is refused. -/
theorem exec_eq (i : Instr) (s : State) :
    exec i s = match toneRowOf i with
      | some k => .next (s.playRow k)
      | none => execStart s := by
  cases i <;> rfl

theorem exec_of_row {i : Instr} {k : Fin 12} (h : toneRowOf i = some k) (s : State) : exec i s = .next (s.playRow k) := by
  rw [exec_eq, h]

/-- A decoded element of SYM is a symbol and has a row. -/
theorem row_of_decodeSym {c : Byte} {i : Instr} (h : decodeSym c = .ok i) : ∃ k, toneRowOf i = some k := by
  unfold decodeSym at h
  split at h <;> first | (cases h; exact ⟨_, rfl⟩) | cases h

/-- A valid code decodes to a symbol. -/
theorem decodeSym_of_valid {c : Byte} (h : validCode c = true) : ∃ i k, decodeSym c = .ok i ∧ toneRowOf i = some k := by
  unfold validCode at h
  split at h
  · rename_i i hi
    obtain ⟨k, hk⟩ := row_of_decodeSym hi
    exact ⟨i, k, hi, hk⟩
  · cases h

theorem decodeSym_of_not_valid {c : Byte} (h : validCode c = false) : ∃ e, decodeSym c = .error e := by
  unfold validCode at h
  split at h
  · cases h
  · exact ⟨_, ‹_›⟩

/-- The only command is START. -/
theorem decodeCmd_ok {v : Word} {i : Instr} (h : decodeCmd v = .ok i) : i = .start := by
  unfold decodeCmd at h
  split at h <;> cases h
  rfl

/-- The block of a symbol under a state's configuration is the block of its row. -/
theorem symbolBlock_of_decode {s : State} {c : Byte} {i : Instr} {k : Fin 12} (h : decodeSym c = .ok i) (hk : toneRowOf i = some k) :
    symbolBlock s.params.roundTie s.config c = block romTable[k] s.fs s.nsig s.nsil := by
  simp [symbolBlock, tonePair, h, hk, State.config, State.fs, State.nsig, State.nsil]

/-! START. -/

/-- The launch premises are what the launch check asks. -/
theorem launchRefusal_eq_none_iff (s : State) : s.launchRefusal = none ↔ launchPremises s := by
  unfold State.launchRefusal launchPremises State.symbolCount State.sampleCount State.blockLen containerLength State.symbolCount
  have hz : s.toneDurUs = 0 ↔ s.toneDurUs.toNat = 0 := by
    constructor
    · intro h; rw [h]; rfl
    · intro h; exact BitVec.eq_of_toNat_eq (by simpa using h)
  simp only [hz]
  split_ifs with h₁ h₂ h₃
  · simp; omega
  · simp; omega
  · simp only [Bool.and_eq_true, decide_eq_true_eq] at h₃
    simp only [false_iff, not_and]
    intro _ _ h; have := h h₃.1; omega
  · simp only [Bool.and_eq_true, decide_eq_true_eq, not_and] at h₃
    simp only [true_iff]
    refine ⟨by omega, by omega, fun h => ?_⟩
    have := h₃ h; omega

/-- With the registers and the tie rule kept, what a request reads from them is kept. -/
theorem request_congr {s t : State} (h : keepsConfig s t) (ht : t.params.roundTie = s.params.roundTie) :
    t.fs = s.fs ∧ t.nsig = s.nsig ∧ t.nsil = s.nsil ∧ t.symbolCount = s.symbolCount ∧ t.formatOk = s.formatOk ∧ t.config = s.config ∧
      t.sampleCount = s.sampleCount := by
  obtain ⟨h₁, h₂, h₃, h₄, h₅, h₆⟩ := h
  have hfs : t.fs = s.fs := by rw [State.fs, State.fs, h₁]
  have hg : t.nsig = s.nsig := by rw [State.nsig, State.nsig, hfs, h₂, ht]
  have hl : t.nsil = s.nsil := by rw [State.nsil, State.nsil, hfs, h₃, ht]
  have hn : t.symbolCount = s.symbolCount := by rw [State.symbolCount, State.symbolCount, h₆]
  refine ⟨hfs, hg, hl, hn, ?_, ?_, ?_⟩
  · simp only [State.formatOk, h₁, h₄, h₅]
  · simp only [State.config, h₁, h₂, h₃, h₄, h₅]
  · simp only [State.sampleCount, State.blockLen, hg, hl, hn]

/-- The launch check reads the registers and the parameters only. -/
theorem launchRefusal_congr {s t : State} (h : keepsConfig s t) (hp : t.params = s.params) : t.launchRefusal = s.launchRefusal := by
  obtain ⟨_, _, _, hn, hf, _, hm⟩ := request_congr h (by rw [hp])
  simp only [State.launchRefusal, hn, hf, hm, h.2.1, hp]

theorem execStart_busy {s : State} (h : s.busy = true) : execStart s = .next s := by simp [execStart, h]

theorem execStart_launch {s : State} (h : s.busy = false) (hr : s.launchRefusal = none) : execStart s = .next s.launch := by
  simp [execStart, h, hr]

/-- What START can answer with a next state. -/
theorem execStart_cases {s t : State} (h : execStart s = .next t) :
    (s.busy = true ∧ t = s) ∨ (s.busy = false ∧ s.launchRefusal = none ∧ t = s.launch) := by
  unfold execStart at h
  split_ifs at h with hb
  · cases h; exact .inl ⟨hb, rfl⟩
  · split at h
    · cases h
    · cases h; exact .inr ⟨by simpa using hb, ‹_›, rfl⟩

/-! The steps of DDC. -/

/-- Everything a step of DDC can do when it answers a next state. -/
theorem ddcStep_cases {U : Config.ToneUnit} {s t : State} (h : ddcStep U s = .next t) :
    (s.phase = .rest ∧ t = s) ∨
    (s.phase = .check ∧ s.formatOk = true ∧ t = s.beginValidate) ∨
    (s.phase = .check ∧ s.formatOk = false ∧ t = s.raiseError .invalidFormat) ∨
    (s.phase = .validate ∧ s.allValid = true ∧ t = s.beginGenerate) ∨
    (s.phase = .validate ∧ s.allValid = false ∧ t = s.raiseError .invalidSymbol) ∨
    (s.phase = .generate ∧ s.pc < s.symbolCount ∧
      ∃ i k, decodeSym (s.symAt s.pc) = .ok i ∧ toneRowOf i = some k ∧ t = s.playRow k) ∨
    (s.phase = .generate ∧ s.pc < s.symbolCount ∧ validCode (s.symAt s.pc) = false ∧ t = s.raiseError .invalidSymbol) ∨
    (s.phase = .generate ∧ ¬ s.pc < s.symbolCount ∧ t = s.beginEncode) ∨
    (s.phase = .encode ∧ containerLength s.link.length ≤ 2 ^ 32 - 1 ∧
      ∃ bytes, container U s.params.roundTie s.fs s.channels.toNat s.bits.toNat s.link = some bytes ∧ t = s.writeContainer bytes) ∨
    (s.phase = .complete ∧ t = s.finish) := by
  unfold ddcStep at h
  split at h
  · cases h; simp [*]
  · split_ifs at h with hf <;> cases h <;> simp [*]
  · split_ifs at h with hf <;> cases h <;> simp [*]
  · split_ifs at h with hp
    · unfold fetchAndRun at h
      split at h
      · rename_i i hi
        obtain ⟨k, hk⟩ := row_of_decodeSym hi
        rw [exec_of_row hk] at h
        cases h
        simp [*]
      · rename_i e he
        cases h
        have : validCode (s.symAt s.pc) = false := by simp [validCode, he]
        simp [*]
    · cases h; simp [*]
  · unfold State.encodeLink at h
    split_ifs at h with hl
    split at h <;> cases h
    simp [*]
    omega
  · cases h; simp [*]

/-- The steps of DDC by phase. -/
theorem ddcStep_rest {U : Config.ToneUnit} {s : State} (h : s.phase = .rest) : ddcStep U s = .next s := by simp [ddcStep, h]

theorem ddcStep_check {U : Config.ToneUnit} {s : State} (h : s.phase = .check) :
    ddcStep U s = if s.formatOk then .next s.beginValidate else .next (s.raiseError .invalidFormat) := by simp [ddcStep, h]

theorem ddcStep_validate {U : Config.ToneUnit} {s : State} (h : s.phase = .validate) :
    ddcStep U s = if s.allValid then .next s.beginGenerate else .next (s.raiseError .invalidSymbol) := by simp [ddcStep, h]

theorem ddcStep_play {U : Config.ToneUnit} {s : State} {i : Instr} {k : Fin 12} (h : s.phase = .generate) (hp : s.pc < s.symbolCount)
    (hi : decodeSym (s.symAt s.pc) = .ok i) (hk : toneRowOf i = some k) : ddcStep U s = .next (s.playRow k) := by
  simp [ddcStep, h, hp, fetchAndRun, hi, exec_of_row hk]

theorem ddcStep_generated {U : Config.ToneUnit} {s : State} (h : s.phase = .generate) (hp : ¬ s.pc < s.symbolCount) : ddcStep U s = .next s.beginEncode := by
  simp [ddcStep, h, hp]

theorem ddcStep_encode {U : Config.ToneUnit} {s : State} {bytes : List Byte} (h : s.phase = .encode)
    (hl : containerLength s.link.length ≤ 2 ^ 32 - 1) (hc : container U s.params.roundTie s.fs s.channels.toNat s.bits.toNat s.link = some bytes) : ddcStep U s = .next (s.writeContainer bytes) := by
  
  simp only [ddcStep, h, State.encodeLink, if_neg (Nat.not_lt.mpr hl), hc]

theorem ddcStep_complete {U : Config.ToneUnit} {s : State} (h : s.phase = .complete) : ddcStep U s = .next s.finish := by simp [ddcStep, h]

/-! The host's accesses and the machine's step. -/

/-- Everything a host action can do when it answers a next state. -/
theorem hostStep_cases {U : Config.ToneUnit} {a : HostAction} {s t : State} (h : hostStep U a s = .next t) :
    (∃ v, a = .writeReg 0 v ∧ v.getLsbD 0 = true ∧ execStart s = .next t) ∨
    (∃ v, a = .writeReg 0 v ∧ v.getLsbD 0 = false ∧ t = s) ∨
    (∃ n v, a = .writeReg n v ∧ n ≠ 0 ∧ n ≤ 8 ∧ s.busy = false ∧ fitsReg n v = true ∧ t = s.setReg n v) ∨
    (∃ n, a = .readReg n ∧ n ≤ 8 ∧ (s.busy = false ∨ n = 1) ∧ t = s.reply (s.regValue n)) ∨
    (∃ k c, a = .writeSym k c ∧ k < s.params.maxSymbols ∧ s.busy = false ∧ t = s.setSym k c) ∨
    (∃ k, a = .readSym k ∧ k < s.params.maxSymbols ∧ s.busy = false ∧ t = s.reply ((s.symAt k).setWidth 32)) ∨
    (∃ k, a = .readOut k ∧ s.busy = false ∧ t = s.reply ((s.outSeenByHost k).setWidth 32)) ∨
    (a = .reset ∧ t = s.resetAll) ∨ (a = .pause ∧ ddcStep U s = .next t) ∨ (a = .await ∧ t = s) := by
  cases a with
  | writeReg n v =>
    simp only [hostStep, hostWriteReg, decodeCmd] at h
    split_ifs at h with h₀ h₁ h₂ h₃ h₄
    · subst h₀; exact .inl ⟨v, rfl, h₁, h⟩
    · subst h₀; cases h; exact .inr (.inl ⟨v, rfl, by simpa using h₁, rfl⟩)
    · cases h; refine .inr (.inr (.inl ⟨n, v, rfl, h₀, by omega, by simpa using h₃, h₄, rfl⟩))
  | readReg n =>
    simp only [hostStep, hostReadReg] at h
    split_ifs at h with h₀ h₁
    cases h
    refine .inr (.inr (.inr (.inl ⟨n, rfl, by omega, ?_, rfl⟩)))
    by_cases hn : n = 1
    · exact .inr hn
    · left; simpa [hn] using h₁
  | writeSym k c =>
    simp only [hostStep, hostWriteSym] at h
    split_ifs at h with h₀ h₁
    cases h
    exact .inr (.inr (.inr (.inr (.inl ⟨k, c, rfl, h₀, by simpa using h₁, rfl⟩))))
  | readSym k =>
    simp only [hostStep, hostReadSym] at h
    split_ifs at h with h₀ h₁
    cases h
    exact .inr (.inr (.inr (.inr (.inr (.inl ⟨k, rfl, h₀, by simpa using h₁, rfl⟩)))))
  | readOut k =>
    simp only [hostStep, hostReadOut] at h
    split_ifs at h with h₁
    cases h
    exact .inr (.inr (.inr (.inr (.inr (.inr (.inl ⟨k, rfl, by simpa using h₁, rfl⟩))))))
  | reset => simp only [hostStep] at h; cases h; simp
  | pause => simp only [hostStep] at h; simp [h]
  | await => simp only [hostStep] at h; cases h; simp

/-- The step is the machine's with the block's own samples, and so is the machine. -/
theorem step_eq (s : State) : step s = machineStep Config.toneUnit s := rfl

theorem coreWith_toneUnit : coreWith Config.toneUnit = core := rfl

/-- With the host idle the machine's step is DDC's. -/
theorem machineStep_of_idle_host {U : Config.ToneUnit} {s : State} (h : s.pending = []) : machineStep U s = ddcStep U s := by
  simp [machineStep, h]

theorem step_of_idle_host {s : State} (h : s.pending = []) : step s = ddcStep Config.toneUnit s := machineStep_of_idle_host h

/-- Everything a step of the machine can do when it answers a next state: DDC moves, or the host's next action takes effect. -/
theorem machineStep_cases {U : Config.ToneUnit} {s t : State} (h : machineStep U s = .next t) :
    ((s.pending = [] ∨ s.busy = true) ∧ ddcStep U s = .next t) ∨
    (∃ a rest, s.pending = a :: rest ∧ (a = .await → s.busy = false) ∧ hostStep U a (s.setPending rest) = .next t) := by
  unfold machineStep at h
  split at h
  · exact .inl ⟨.inl ‹_›, h⟩
  · split_ifs at h with hb
    · exact .inl ⟨.inr hb, h⟩
    · exact .inr ⟨.await, _, ‹_›, fun _ => by simpa using hb, h⟩
  · rename_i a rest hne hp
    exact .inr ⟨a, rest, hp, fun ha => (hne ha).elim, h⟩

/-- A step of a run with the host idle. -/
theorem run_succ_of_ddc {U : Config.ToneUnit} {s t : State} (hp : s.pending = []) (h : ddcStep U s = .next t) (k : Nat) :
    (coreWith U).run (k + 1) s = (coreWith U).run k t := by
  have : (coreWith U).step s = .next t := (machineStep_of_idle_host hp).trans h
  simp only [Host.Core.run, this]

end Sys2Proof.Machine
end

