-- ==== Sys2Proof/Laws/Synthesizer.lean ====
section
/-! SUPPORT. Lengths and elements of a block and of the sample sequence. -/

namespace Sys2Proof.Machine

@[simp] theorem length_toneBurst (row : ToneRow) (fs nsig : Nat) : (toneBurst row fs nsig).length = nsig := by simp [toneBurst]

@[simp] theorem length_silenceGap (nsil : Nat) : (silenceGap nsil).length = nsil := by simp [silenceGap]

@[simp] theorem length_block (row : ToneRow) (fs nsig nsil : Nat) : (block row fs nsig nsil).length = nsig + nsil := by simp [block]

/-- The burst of a block. -/
theorem block_tone (row : ToneRow) (fs nsig nsil r : Nat) (h : r < nsig) :
    (block row fs nsig nsil)[r]? = some (.tone row.low row.high r fs) := by
  simp [block, List.getElem?_append, h, toneBurst]

/-- The gap of a block. -/
theorem block_gap (row : ToneRow) (fs nsig nsil r : Nat) (h₁ : nsig ≤ r) (h₂ : r < nsig + nsil) :
    (block row fs nsig nsil)[r]? = some (.num 0) := by
  simp [block, List.getElem?_append, Nat.not_lt.mpr h₁, silenceGap, show r - nsig < nsil by omega]

/-- SYN writes tone samples and zeros only. -/
theorem mem_block {row : ToneRow} {fs nsig nsil : Nat} {x : Sample} (h : x ∈ block row fs nsig nsil) :
    (∃ j, x = .tone row.low row.high j fs) ∨ x = .num 0 := by
  simp only [block, toneBurst, silenceGap, List.mem_append, List.mem_map, List.mem_range, List.mem_replicate] at h
  rcases h with ⟨j, _, rfl⟩ | ⟨_, rfl⟩
  · exact .inl ⟨j, rfl⟩
  · exact .inr rfl

/-- Nothing SYN writes is without a number. -/
theorem nan_not_mem_sequenceOf (t : RoundTie) (cfg : RequestConfig) (syms : List Byte) : Sample.nan ∉ sequenceOf t cfg syms := by
  intro h
  obtain ⟨c, _, hc⟩ := List.mem_flatMap.mp h
  unfold symbolBlock at hc
  split at hc
  · rcases mem_block hc with ⟨j, hj⟩ | hj <;> cases hj
  · simp at hc

@[simp] theorem length_symbols (s : State) (n : Nat) : (s.symbols n).length = n := by simp [State.symbols]

theorem symbols_succ (s : State) (n : Nat) : s.symbols (n + 1) = s.symbols n ++ [s.symAt n] := by
  simp [State.symbols, List.range_succ]

theorem allValid_iff (s : State) : s.allValid = true ↔ ∀ i, i < s.symbolCount → validCode (s.symAt i) = true := by
  simp [State.allValid, State.symbols]

theorem allValid_eq_false_iff (s : State) : s.allValid = false ↔ ∃ i, i < s.symbolCount ∧ validCode (s.symAt i) = false := by
  rw [← Bool.not_eq_true, allValid_iff]
  push Not
  simp

@[simp] theorem linkAfter_zero (s : State) : s.linkAfter 0 = [] := by simp [State.linkAfter, State.symbols, sequenceOf]

/-- LINK grows by the block of the next symbol. -/
theorem linkAfter_succ (s : State) (n : Nat) : s.linkAfter (n + 1) = s.linkAfter n ++ symbolBlock s.params.roundTie s.config (s.symAt n) := by
  simp [State.linkAfter, symbols_succ, sequenceOf]

/-- What LINK holds depends on the configuration, the tie rule and the symbols read. -/
theorem linkAfter_congr {s t : State} (h : t.config = s.config) (ht : t.params.roundTie = s.params.roundTie) {n : Nat} (hs : ∀ a, a < n → t.symAt a = s.symAt a) :
    t.linkAfter n = s.linkAfter n := by
  have : t.symbols n = s.symbols n := by
    simp only [State.symbols]
    exact List.map_congr_left fun a ha => hs a (List.mem_range.mp ha)
  rw [State.linkAfter, State.linkAfter, h, ht, this]

/-- A valid symbol's block has the block length. -/
theorem length_symbolBlock {s : State} {c : Byte} (h : validCode c = true) : (symbolBlock s.params.roundTie s.config c).length = s.blockLen := by
  obtain ⟨i, k, hi, hk⟩ := decodeSym_of_valid h
  rw [symbolBlock_of_decode hi hk, length_block]
  rfl

/-- The length of LINK after `n` valid symbols. -/
theorem length_linkAfter {s : State} {n : Nat} (h : ∀ a, a < n → validCode (s.symAt a) = true) : (s.linkAfter n).length = n * s.blockLen := by
  induction n with
  | zero => simp
  | succ n ih =>
    rw [linkAfter_succ, List.length_append, ih fun a ha => h a (by omega), length_symbolBlock (h n (by omega))]
    ring

/-- Sample `r` of symbol `p` stands at `p × B + r`. -/
theorem linkAfter_getElem? {s : State} {n p r : Nat} (h : ∀ a, a < n → validCode (s.symAt a) = true) (hp : p < n) (hr : r < s.blockLen) :
    (s.linkAfter n)[p * s.blockLen + r]? = (symbolBlock s.params.roundTie s.config (s.symAt p))[r]? := by
  induction n with
  | zero => omega
  | succ n ih =>
    have hl := length_linkAfter (s := s) (n := n) fun a ha => h a (by omega)
    rw [linkAfter_succ, List.getElem?_append, hl]
    rcases Nat.lt_succ_iff_lt_or_eq.mp hp with hp' | rfl
    · have : p * s.blockLen + r < n * s.blockLen := by
        have := Nat.mul_le_mul_right s.blockLen (show p + 1 ≤ n from hp')
        rw [Nat.add_mul] at this; omega
      rw [if_pos this]
      exact ih (fun a ha => h a (by omega)) hp'
    · simp

end Sys2Proof.Machine
end

