-- ==== Sys2Proof/Laws/Encoder.lean ====
section
/-! SUPPORT. Lengths, elements and field values of what ENC writes. -/

namespace Sys2Proof.Machine

@[simp] theorem length_u16le (v : Nat) : (u16le v).length = 2 := rfl

@[simp] theorem length_u32le (v : Nat) : (u32le v).length = 4 := rfl

@[simp] theorem length_i16le (q : Int) : (i16le q).length = 2 := rfl

@[simp] theorem length_header (fs ch bits m : Nat) : (header fs ch bits m).length = 44 := rfl

/-- Two bytes read back as the value they were made of. -/
theorem fieldU16_u16le {v : Nat} (h : v < 2 ^ 16) : fieldU16 (u16le v) 0 = v := by
  simp [fieldU16, byteAt, u16le]
  omega

/-- Four bytes read back as the value they were made of. -/
theorem fieldU32_u32le {v : Nat} (h : v < 2 ^ 32) : fieldU32 (u32le v) 0 = v := by
  simp [fieldU32, byteAt, u32le]
  omega

/-- The two bytes of a signed 16-bit value read back as it. -/
theorem fieldI16_i16le {q : Int} (h₁ : -32768 ≤ q) (h₂ : q ≤ 32767) : fieldI16 (i16le q) 0 = q := by
  have : fieldU16 (i16le q) 0 = (q % 65536).toNat := fieldU16_u16le (by omega)
  unfold fieldI16
  rw [this]
  split_ifs <;> omega

/-- A field is read from the bytes at its offset. -/
theorem byteAt_drop (l : List Byte) (a k : Nat) : byteAt (l.drop a) k = byteAt l (a + k) := by
  simp [byteAt, List.getD_eq_getElem?_getD, List.getElem?_drop]

theorem byteAt_take {l : List Byte} {n k : Nat} (h : k < n) : byteAt (l.take n) k = byteAt l k := by
  simp [byteAt, List.getD_eq_getElem?_getD, h]

/-- A signed sample is read from the two bytes at its offset. -/
theorem fieldI16_eq_of_take {l : List Byte} {a : Nat} {b : List Byte} (h : (l.drop a).take 2 = b) : fieldI16 l a = fieldI16 b 0 := by
  have h₀ : byteAt b 0 = byteAt l a := by rw [← h, byteAt_take (by omega), byteAt_drop]; rfl
  have h₁ : byteAt b 1 = byteAt l (a + 1) := by rw [← h, byteAt_take (by omega), byteAt_drop]
  have h₂ : fieldU16 b 0 = fieldU16 l a := by simp only [fieldU16, h₀, h₁, Nat.zero_add]
  rw [fieldI16, fieldI16, h₂]

/-- Only a sample without a number has no code. -/
theorem quantize_eq_none_iff (U : Config.ToneUnit) (t : RoundTie) (x : Sample) : quantize U t x = none ↔ x = .nan := by cases x <;> simp [quantize]

/-- The code of any sample is in range. -/
theorem quantize_range {U : Config.ToneUnit} {t : RoundTie} {x : Sample} {q : Int} (h : quantize U t x = some q) : -32768 ≤ q ∧ q ≤ 32767 := by
  have key {K : Type} [Field K] [LinearOrder K] [IsStrictOrderedRing K] [FloorRing K] (v : K) :
      -32768 ≤ quantizeNum t v ∧ quantizeNum t v ≤ 32767 := by
    obtain ⟨h₁, h₂⟩ := scaled_bounds v
    exact roundTo_between _ (by exact_mod_cast h₁) (by exact_mod_cast h₂)
  cases x with
  | tone lo hi j fs =>
    simp only [quantize, Option.some.injEq] at h
    rw [← h, U.codeEq]
    exact key _
  | num v => simp only [quantize, Option.some.injEq] at h; rw [← h]; exact key _
  | posInf => simp only [quantize, Option.some.injEq] at h; rw [← h]; exact key _
  | negInf => simp only [quantize, Option.some.injEq] at h; rw [← h]; exact key _
  | nan => simp [quantize] at h

/-- The data section of samples that all denote numbers is their frames in order. -/
theorem dataSection_of_numbers {U : Config.ToneUnit} {t : RoundTie} {xs : List Sample} (h : Sample.nan ∉ xs) :
    dataSection U t xs = some (xs.flatMap fun x => (frame U t x).getD []) := by
  induction xs with
  | nil => rfl
  | cons x xs ih =>
    simp only [List.mem_cons, not_or] at h
    obtain ⟨q, hq⟩ := Option.ne_none_iff_exists'.mp (mt (quantize_eq_none_iff U t x).mp (Ne.symm h.1))
    simp [dataSection, frame, hq, ih h.2]

theorem dataSection_eq_none_iff (U : Config.ToneUnit) (t : RoundTie) (xs : List Sample) : dataSection U t xs = none ↔ Sample.nan ∈ xs := by
  constructor
  · intro h
    by_contra hn
    rw [dataSection_of_numbers hn] at h
    cases h
  · intro h
    induction xs with
    | nil => simp at h
    | cons x xs ih =>
      rcases List.mem_cons.mp h with rfl | h
      · simp [dataSection, frame, quantize]
      · simp only [dataSection, ih h]
        split <;> simp_all

/-- What a data section says of its samples: its length, and each sample's two bytes. -/
theorem dataSection_some {U : Config.ToneUnit} {t : RoundTie} {xs : List Sample} {d : List Byte} (h : dataSection U t xs = some d) :
    d.length = 2 * xs.length ∧
      ∀ i (hi : i < xs.length), ∃ q, quantize U t xs[i] = some q ∧ (d.drop (2 * i)).take 2 = i16le q := by
  induction xs generalizing d with
  | nil => cases h; simp
  | cons x xs ih =>
    simp only [dataSection] at h
    split at h
    · rename_i b rest hb hrest
      cases h
      obtain ⟨hl, hs⟩ := ih hrest
      obtain ⟨q, hq, rfl⟩ := Option.map_eq_some_iff.mp hb
      refine ⟨by simp [hl]; omega, fun i hi => ?_⟩
      cases i with
      | zero => exact ⟨q, hq, by simp [i16le, u16le]⟩
      | succ i =>
        obtain ⟨q', hq', hd⟩ := hs i (by simpa using hi)
        refine ⟨q', by simpa using hq', ?_⟩
        rw [← hd, show 2 * (i + 1) = (i16le q).length + 2 * i by simp; omega, List.drop_length_add_append]
    · cases h

/-- A container is its header and its data section. -/
theorem container_some {U : Config.ToneUnit} {t : RoundTie} {fs ch bits : Nat} {xs : List Sample} {bytes : List Byte} (h : container U t fs ch bits xs = some bytes) :
    ∃ d, dataSection U t xs = some d ∧ bytes = header fs ch bits xs.length ++ d ∧ bytes.length = 44 + 2 * xs.length := by
  obtain ⟨d, hd, rfl⟩ := Option.map_eq_some_iff.mp h
  exact ⟨d, hd, rfl, by simp [(dataSection_some hd).1]⟩

/-- A sample's two bytes in the container. -/
theorem container_frame {U : Config.ToneUnit} {t : RoundTie} {fs ch bits : Nat} {xs : List Sample} {bytes : List Byte} (h : container U t fs ch bits xs = some bytes) {i : Nat}
    (hi : i < xs.length) : ∃ q, quantize U t xs[i] = some q ∧ (bytes.drop (44 + 2 * i)).take 2 = i16le q := by
  obtain ⟨d, hd, rfl, _⟩ := container_some h
  obtain ⟨q, hq, hb⟩ := (dataSection_some hd).2 i hi
  refine ⟨q, hq, ?_⟩
  rw [← hb, ← length_header fs ch bits xs.length, List.drop_length_add_append]

end Sys2Proof.Machine
end

