-- ==== Sys2Proof/Laws/PerInstr.lean ====
section
/-! SUPPORT. The one statement made per instruction: the encoding tables of spec/30_encoding.md give each instruction a code word that decodes
to it and to no other. -/

namespace Sys2Proof

/-- The instruction is well formed, its code word decodes to it, and an instruction with the same code word is the same (R81, R82, R94). -/
def Laws.Codec.Statement (i : Instr) : Prop :=
  i.wellFormed = true ∧ decode (encode i) = .ok i ∧ ∀ k : Instr, encode k = encode i → k = i

/-- Symbol `'0'`. -/
theorem Laws.Codec.key0 : Laws.Codec.Statement .key0 := ⟨rfl, rfl, fun k h => by cases k <;> revert h <;> decide⟩

/-- Symbol `'1'`. -/
theorem Laws.Codec.key1 : Laws.Codec.Statement .key1 := ⟨rfl, rfl, fun k h => by cases k <;> revert h <;> decide⟩

/-- Symbol `'2'`. -/
theorem Laws.Codec.key2 : Laws.Codec.Statement .key2 := ⟨rfl, rfl, fun k h => by cases k <;> revert h <;> decide⟩

/-- Symbol `'3'`. -/
theorem Laws.Codec.key3 : Laws.Codec.Statement .key3 := ⟨rfl, rfl, fun k h => by cases k <;> revert h <;> decide⟩

/-- Symbol `'4'`. -/
theorem Laws.Codec.key4 : Laws.Codec.Statement .key4 := ⟨rfl, rfl, fun k h => by cases k <;> revert h <;> decide⟩

/-- Symbol `'5'`. -/
theorem Laws.Codec.key5 : Laws.Codec.Statement .key5 := ⟨rfl, rfl, fun k h => by cases k <;> revert h <;> decide⟩

/-- Symbol `'6'`. -/
theorem Laws.Codec.key6 : Laws.Codec.Statement .key6 := ⟨rfl, rfl, fun k h => by cases k <;> revert h <;> decide⟩

/-- Symbol `'7'`. -/
theorem Laws.Codec.key7 : Laws.Codec.Statement .key7 := ⟨rfl, rfl, fun k h => by cases k <;> revert h <;> decide⟩

/-- Symbol `'8'`. -/
theorem Laws.Codec.key8 : Laws.Codec.Statement .key8 := ⟨rfl, rfl, fun k h => by cases k <;> revert h <;> decide⟩

/-- Symbol `'9'`. -/
theorem Laws.Codec.key9 : Laws.Codec.Statement .key9 := ⟨rfl, rfl, fun k h => by cases k <;> revert h <;> decide⟩

/-- Symbol `'*'`. -/
theorem Laws.Codec.keyStar : Laws.Codec.Statement .keyStar := ⟨rfl, rfl, fun k h => by cases k <;> revert h <;> decide⟩

/-- Symbol `'#'`. -/
theorem Laws.Codec.keyHash : Laws.Codec.Statement .keyHash := ⟨rfl, rfl, fun k h => by cases k <;> revert h <;> decide⟩

/-- The command START. -/
theorem Laws.Codec.start : Laws.Codec.Statement .start := ⟨rfl, rfl, fun k h => by cases k <;> revert h <;> decide⟩

end Sys2Proof
end

