-- ==== Sys2Proof/Tests/Slice0.lean ====
section
/-! SUPPORT. Tests. The first part checks the model against words, tables and programs of the spec; the second shows, for each
statement with hypotheses, a state and operands that meet them. -/

open Sys2Proof Sys2Proof.Machine

/-! ## Well-formedness -/

/-- START is no symbol of a program (R34, R82). -/
theorem test_program_refuses_start : programWellFormed 4 [.key1, .start] = false := by decide

/-- A program longer than SYM is deep is refused (premise P2). -/
theorem test_program_refuses_too_long : programWellFormed 2 [.key1, .key2, .key3] = false := by decide

/-- The spec's written program `"0#"` (R93), and the empty program. -/
theorem test_program_accepts : programWellFormed 2 [.key0, .keyHash] = true ∧ programWellFormed 0 [] = true := by decide

/-! ## Decoding: each word written out from the tables of R81 and R82 -/

theorem test_decode_digits_low :
    decode (.sym8 0b00110000) = .ok .key0 ∧ decode (.sym8 0b00110001) = .ok .key1 ∧ decode (.sym8 0b00110010) = .ok .key2 ∧
      decode (.sym8 0b00110011) = .ok .key3 ∧ decode (.sym8 0b00110100) = .ok .key4 := by decide

theorem test_decode_digits_high :
    decode (.sym8 0b00110101) = .ok .key5 ∧ decode (.sym8 0b00110110) = .ok .key6 ∧ decode (.sym8 0b00110111) = .ok .key7 ∧
      decode (.sym8 0b00111000) = .ok .key8 ∧ decode (.sym8 0b00111001) = .ok .key9 := by decide

theorem test_decode_star_and_hash : decode (.sym8 0b00101010) = .ok .keyStar ∧ decode (.sym8 0b00100011) = .ok .keyHash := by decide

theorem test_decode_start :
    decode (.cmd 0b00000000000000000000000000000001) = .ok .start ∧ decode (.cmd 0b00000000000000000000000000000011) = .ok .start ∧
      decode (.cmd 0b00000000000000000000000000000010) = .error (.noCommand 2) := by decide

/-- The illegal codes beside the accepted ones (V1). -/
theorem test_decode_refuses_neighbours :
    validCode 0x2F = false ∧ validCode 0x3A = false ∧ validCode 0x22 = false ∧ validCode 0x24 = false ∧ validCode 0x29 = false ∧
      validCode 0x2B = false ∧ validCode 0x41 = false ∧ validCode 0xB5 = false ∧ validCode 0x00 = false := by decide

/-- The table's rows as the host numbers their bits. -/
theorem test_table_words :
    decodeTableWord 8 0x2A = some .keyStar ∧ decodeTableWord 32 1 = some .start ∧ decodeTableWord 32 0 = none ∧
      decodeTableWord 8 0x41 = none := by decide

/-- The spec's `"0#"` in bytes (R93). -/
theorem test_encode_program : encodeProgram [.key0, .keyHash] = [0x30, 0x23] := by decide

/-! ## The spec's tables and programs -/

/-- The counts of V4 that depend on the tie rule, and one that does not. -/
theorem test_counts :
    samplesOf .away 22050 50000 = 1103 ∧ samplesOf .up 22050 50000 = 1103 ∧ samplesOf .even 22050 50000 = 1102 ∧
      samplesOf .even 30 50000 = 2 ∧ samplesOf .even 10 50000 = 0 ∧ samplesOf .away 1 499999 = 0 ∧
      samplesOf .away 44100 4294967295 = 189408058 ∧ samplesOf .even 2147483647 50000 = 107374182 := by decide

/-- Rows of V5 that a swapped multiplier, a missing clamp or a wrong tie would change. -/
theorem test_quantizer_table :
    quantizeNum .away (-(9 / 10) : Rat) = -29491 ∧ quantizeNum .away (1 / 2 : Rat) = 16384 ∧ quantizeNum .even (1 / 2 : Rat) = 16384 ∧
      quantizeNum .away (-2 : Rat) = -32768 ∧ quantizeNum .even (1 / 65534 : Rat) = 0 ∧ quantizeNum .up (-(5 / 65536) : Rat) = -2 ∧
      quantizeNum .away (-(5 / 65536) : Rat) = -3 := by decide +kernel

/-- The first sample of the symbol `'5'` after the zero (P2): its code and its bytes. -/
theorem test_sample_bytes : quantizeNum .away (149343425815589 / 1000000000000000 : Rat) = 4894 ∧ i16le 4894 = [0x1E, 0x13] ∧
    i16le (-14465) = [0x7F, 0xC7] := by decide +kernel

/-- The header of P4, byte by byte. -/
theorem test_header_of_p4 : header 8000 1 16 24 =
    [0x52, 0x49, 0x46, 0x46, 0x54, 0x00, 0x00, 0x00, 0x57, 0x41, 0x56, 0x45, 0x66, 0x6D, 0x74, 0x20, 0x10, 0x00, 0x00, 0x00, 0x01, 0x00,
      0x01, 0x00, 0x40, 0x1F, 0x00, 0x00, 0x80, 0x3E, 0x00, 0x00, 0x02, 0x00, 0x10, 0x00, 0x64, 0x61, 0x74, 0x61, 0x30, 0x00, 0x00,
      0x00] := by decide

/-- The header at the top of the 32-bit range (the last rows of V6). -/
theorem test_header_top : (header 2147483647 1 16 0).drop 24 =
      [0xFF, 0xFF, 0xFF, 0x7F, 0xFE, 0xFF, 0xFF, 0xFF, 0x02, 0x00, 0x10, 0x00, 0x64, 0x61, 0x74, 0x61, 0x00, 0x00, 0x00, 0x00] ∧
    ((header 44100 1 16 2147483625).drop 4).take 4 = [0xF6, 0xFF, 0xFF, 0xFF] ∧
    (header 44100 1 16 2147483625).drop 40 = [0xD2, 0xFF, 0xFF, 0xFF] := by decide

/-- `STATUS` words (V7): BUSY 1, DONE 2, ERROR with InvalidSymbol 7, ERROR with InvalidFormat 11. -/
theorem test_status_words :
    State.reset.launch.status = 1 ∧ State.reset.launch.finish.status = 2 ∧ (State.reset.launch.raiseError .invalidSymbol).status = 7 ∧
      (State.reset.launch.raiseError .invalidFormat).status = 0x0000000B := by decide

/-- Registers after reset, as V9 lists them. -/
theorem test_reset_registers : ((List.range 9).map fun n => (State.reset.regValue n).toNat) = [0, 0, 44100, 50000, 50000, 1, 16, 0, 0] := by
  decide

/-- A rate with bit 31 set is stored, reads back, and fails the format check (V9, R242). -/
theorem test_negative_rate : (State.reset.setReg 2 0x80000000).regValue 2 = 0x80000000 ∧ (State.reset.setReg 2 0x80000000).formatOk = false := by
  decide

/-! ## States the witnesses use -/

/-- A DDC with 16 symbols and the spec's default tie rule. -/
def testParams : Config.Params := { maxSymbols := 16 }

/-- 1000 Hz with 1 ms of tone and 1 ms of silence (each one sample under every tie rule), and one symbol, `'5'`. -/
def testSetup : State :=
  { State.reset with
    sampleRate := 1000, toneDurUs := 1000, silenceDurUs := 1000, symCount := 1, sym := [(0, 0x35)], params := testParams }

/-- The set-up with START as the host's next write. -/
def testLaunch : State := { testSetup with pending := [.writeReg 0 1] }

/-- A running request over the set-up, in a given phase. -/
def testBusy (p : Phase) : State := { testSetup with status := 1, phase := p, runCount := 1 }

/-- The samples of the set-up's one block. -/
def testLink : List Sample := [.tone 770 1336 0 1000, .num 0]

/-- The bytes of the set-up's container. -/
def testBytes : List Byte := header 1000 1 16 2 ++ (i16le (Config.toneUnit.code .away 770 1336 0 1000) ++ [0x00, 0x00])

/-- The generation pass when its one symbol has been played. -/
def testPlayed : State := { testBusy .generate with pc := 1, wp := 2, j := 0, link := testLink }

/-- The same, with ENC next. -/
def testEncode : State := { testBusy .encode with pc := 1, wp := 0, link := testLink }

/-- The same, with completion next. -/
def testComplete : State := { testBusy .complete with pc := 1, wp := testBytes.length, link := testLink, out := Memory.writeList [] 0 testBytes }

/-- The set-up after its request has ended in DONE. -/
def testDone : State := { testComplete with status := 2, phase := .rest, link := [], outLen := 48 }

/-- The set-up after a request that ended in ERROR, InvalidSymbol. -/
def testError : State := { testSetup with status := 7, runCount := 1 }

/-! ## Each symbol plays its own pair (V1), START launches -/

/-- LINK after an instruction at the set-up. -/
def testPlays (i : Instr) : Option (List Sample) :=
  match exec i testSetup with
  | .next t => some t.link
  | _ => none

theorem test_digits_play_their_pairs :
    testPlays .key0 = some [.tone 941 1336 0 1000, .num 0] ∧ testPlays .key1 = some [.tone 697 1209 0 1000, .num 0] ∧
      testPlays .key2 = some [.tone 697 1336 0 1000, .num 0] ∧ testPlays .key3 = some [.tone 697 1477 0 1000, .num 0] ∧
      testPlays .key4 = some [.tone 770 1209 0 1000, .num 0] ∧ testPlays .key5 = some testLink := by decide

theorem test_other_symbols_play_their_pairs :
    testPlays .key6 = some [.tone 770 1477 0 1000, .num 0] ∧ testPlays .key7 = some [.tone 852 1209 0 1000, .num 0] ∧
      testPlays .key8 = some [.tone 852 1336 0 1000, .num 0] ∧ testPlays .key9 = some [.tone 852 1477 0 1000, .num 0] ∧
      testPlays .keyStar = some [.tone 941 1209 0 1000, .num 0] ∧ testPlays .keyHash = some [.tone 941 1477 0 1000, .num 0] := by decide

/-- The step runs a symbol placed for it, and leaves the counters of the generation pass as R139 says. -/
theorem test_step_runs_a_placed_symbol :
    ∃ t, step (testSetup.withFetchWord 8 0x23) = .next t ∧ t.pc = 1 ∧ t.wp = 2 ∧ t.link = [.tone 941 1477 0 1000, .num 0] :=
  ⟨_, rfl, by decide⟩

/-- The launch premises of the set-up. -/
theorem test_setup_premises : launchPremises testSetup :=
  ⟨by decide, by decide, fun _ => by decide⟩

/-- START at the set-up. -/
theorem test_start_launches : exec .start testSetup = .next testSetup.launch :=
  execStart_launch (by decide) ((launchRefusal_eq_none_iff _).mpr test_setup_premises)

/-- START with no tone duration is refused (P4), and is ignored while BUSY. -/
theorem test_start_refused_and_ignored :
    exec .start (State.reset.setReg 3 0) = .refused .zeroToneDuration ∧ exec .start (testBusy .check) = .next (testBusy .check) :=
  ⟨by simp [exec, execStart, State.launchRefusal, State.busy, State.runState, runStateOf, stateField, State.setReg, State.reset,
      State.symbolCount], by rfl⟩

/-! ## Witnesses: states that meet the invariant -/

theorem test_inv_reset : State.reset.Inv Config.toneUnit := by
  constructor <;> simp [State.reset, State.busy, State.runState, runStateOf, stateField, reservedField, errField, Memory.wf]

/-- What all the states over the set-up share. -/
theorem test_refusal_busy (p : Phase) : (testBusy p).launchRefusal = none := (launchRefusal_eq_none_iff _).mpr test_setup_premises

theorem test_linkAfter_one : testSetup.linkAfter 1 = testLink := by decide

theorem test_inv_check : (testBusy .check).Inv Config.toneUnit where
  symWf := by decide
  outWf := by decide
  symInside := by decide
  reserved := by decide
  errLegal := by decide
  errIff := by decide
  phaseIff := by decide
  linkEmpty := by decide
  lengthZero := by decide
  whole := fun h => absurd h (by decide)
  premises := fun _ => test_refusal_busy _
  formatPassed := by decide
  symbolsPassed := by decide
  generating := fun h => absurd h (by decide)
  generated := fun h => absurd h (by decide)
  encoded := fun h => absurd h (by decide)

theorem test_inv_validate : (testBusy .validate).Inv Config.toneUnit :=
  { test_inv_check with
    formatPassed := by decide
    symbolsPassed := by decide
    phaseIff := by decide
    linkEmpty := by decide
    generating := fun h => absurd h (by decide)
    generated := fun h => absurd h (by decide)
    encoded := fun h => absurd h (by decide) }

theorem test_inv_generate : (testBusy .generate).Inv Config.toneUnit :=
  { test_inv_check with
    formatPassed := by decide
    symbolsPassed := by decide
    phaseIff := by decide
    linkEmpty := by decide
    generating := by decide
    generated := fun h => absurd h (by decide)
    encoded := fun h => absurd h (by decide) }

theorem test_inv_played : testPlayed.Inv Config.toneUnit :=
  { test_inv_generate with
    linkEmpty := by decide
    generating := fun _ => ⟨by decide, by decide, by decide⟩
    generated := by simp [testPlayed, testBusy]
    encoded := by simp [testPlayed, testBusy] }

theorem test_inv_encode : testEncode.Inv Config.toneUnit :=
  { test_inv_check with
    formatPassed := by decide
    symbolsPassed := by decide
    phaseIff := by decide
    linkEmpty := by decide
    generating := fun h => absurd h (by decide)
    generated := fun _ => ⟨by decide, by decide⟩
    encoded := fun h => absurd h (by decide) }

theorem test_container : container Config.toneUnit .away 1000 1 16 testLink = some testBytes := by
  simp [container, testLink, testBytes, dataSection, frame, quantize, quantizeNum_zero]
  decide

theorem test_bytes_length : testBytes.length = 48 := rfl

theorem test_read_bytes : ∀ a (h : a < testBytes.length), testComplete.out.read a = some testBytes[a] := by
  intro a h
  have := Memory.read_writeList [] 0 testBytes a h
  rwa [Nat.zero_add] at this

theorem test_inv_complete : testComplete.Inv Config.toneUnit :=
  { test_inv_encode with
    outWf := Memory.wf_writeList (by decide) _ _
    phaseIff := ⟨(nomatch ·), (nomatch ·)⟩
    formatPassed := fun _ => test_inv_encode.formatPassed (.inr (.inr (.inl rfl)))
    symbolsPassed := fun _ => test_inv_encode.symbolsPassed (.inr (.inl rfl))
    linkEmpty := by simp [testComplete, testBusy]
    generating := by simp [testComplete, testBusy]
    generated := fun _ => test_inv_encode.generated (.inl rfl)
    whole := fun h => absurd h (by decide)
    encoded := fun _ => ⟨testBytes, test_container, rfl, test_read_bytes⟩ }

theorem test_inv_done : testDone.Inv Config.toneUnit :=
  { test_inv_complete with
    reserved := by decide
    errLegal := by decide
    errIff := by decide
    phaseIff := by decide
    linkEmpty := fun _ => rfl
    lengthZero := fun h => absurd h (by decide)
    whole := fun _ => ⟨by decide, fun a h => by
      have h' : a < testBytes.length := h
      have e : testDone.out.read a = some testBytes[a] := test_read_bytes a h'
      rw [e]; rfl⟩
    premises := fun h => absurd h (by decide)
    formatPassed := fun h => absurd h (by decide)
    symbolsPassed := fun h => absurd h (by decide)
    generating := fun h => absurd h (by decide)
    generated := fun h => absurd h (by decide)
    encoded := fun h => absurd h (by decide) }

theorem test_inv_error : testError.Inv Config.toneUnit :=
  { test_inv_check with
    reserved := by decide
    errLegal := by decide
    errIff := by decide
    phaseIff := by decide
    linkEmpty := fun _ => rfl
    lengthZero := fun _ => rfl
    whole := fun h => absurd h (by decide)
    premises := fun h => absurd h (by decide)
    formatPassed := fun h => absurd h (by decide)
    symbolsPassed := fun h => absurd h (by decide)
    generating := fun h => absurd h (by decide)
    generated := fun h => absurd h (by decide)
    encoded := fun h => absurd h (by decide) }

/-! ## Witnesses: for each statement with hypotheses, a state and operands that meet them all, and each clause at its boundary -/

/-- Valid codes at the ends of the digit run and beside it, and an illegal one: both clauses of `EveryByteIsOneSymbolOrIllegal`. -/
theorem test_witness_every_byte : validCode 0x30 = true ∧ validCode 0x39 = true ∧ validCode 0x2A = true ∧ validCode 0x23 = true ∧
    validCode 0x3A = false := by decide

/-- A `CTRL` write with bit 0 clear and every other bit set, and one with bit 0 alone. -/
theorem test_witness_start_bit : (0xFFFFFFFE : Word) &&& 1 = 0 ∧ (1 : Word) &&& 1 = 1 ∧ isStartWord 1 := by decide

theorem test_witness_symbol_sequence : programWellFormed testSetup.params.maxSymbols [.key5] = true ∧ 0 < [Instr.key5].length := by
  decide

theorem test_witness_reset_input : ({ testBusy .generate with pending := [.reset] } : State).pending = .reset :: [] := rfl

theorem test_witness_fetch : (testBusy .generate).pending = [] ∧ (testBusy .generate).phase = .generate ∧
    (testBusy .generate).pc < (testBusy .generate).symbolCount ∧
    decodeSym ((testBusy .generate).symAt (testBusy .generate).pc) = .ok .key5 := ⟨rfl, rfl, by decide, rfl⟩

/-- Each clause of `StepRunsTheWrittenCommand`: START, an access, an `await` outside BUSY and in it, an idle host. -/
theorem test_witness_written_command : testLaunch.pending = .writeReg 0 1 :: [] ∧ decodeCmd 1 = .ok .start ∧
    (testSetup.setPending [.readReg 8, .await]).pending = .readReg 8 :: [.await] ∧ HostAction.readReg 8 ≠ .await ∧
    (testSetup.setPending [.await]).pending = .await :: [] ∧ (testSetup.setPending [.await]).busy = false ∧
    ((testBusy .check).setPending [.await]).pending = .await :: [] ∧ ((testBusy .check).setPending [.await]).busy = true ∧
    (testBusy .check).pending = [] := ⟨rfl, rfl, rfl, by decide, rfl, by decide, rfl, by decide, rfl⟩

/-- A step from a busy state that meets the invariant: the symbol is played. -/
theorem test_witness_step_keeps_invariant : (testBusy .generate).Inv Config.toneUnit ∧ step (testBusy .generate) = .next ((testBusy .generate).playRow 5) :=
  ⟨test_inv_generate, rfl⟩

theorem test_witness_nothing_happens : testDone.Inv Config.toneUnit ∧ testDone.pending = [] ∧ testDone.busy = false := ⟨test_inv_done, rfl, by decide⟩

theorem test_witness_symbol_frame : Instr.key5.isSymbol = true ∧ exec .key5 testSetup = .next (testSetup.playRow 5) := ⟨rfl, rfl⟩

theorem test_witness_tone_pairs : tonePair 0x35 = some ⟨770, 1336⟩ ∧ tonePair 0x23 = some ⟨941, 1477⟩ ∧ tonePair 0x31 = some ⟨697, 1209⟩ ∧
    697 ∈ [697, 770, 852, 941] ∧ 1477 ∈ [1209, 1336, 1477] := by decide

/-- A count that is another under `even`: the hypotheses of the second and third clause, at a tie. -/
theorem test_witness_counts : RoundTie.up ≠ .even ∧ samplesOf .even 22050 50000 ≠ (22050 * 50000 + 500000) / 1000000 := by decide

/-- A value nearer than a half to an integer, and a tie below zero. -/
theorem test_witness_round : |((2 : Int) : ℝ) - 9 / 4| < 1 / 2 ∧ (-(1 / 2) : ℝ) - ⌊(-(1 / 2) : ℝ)⌋ = 1 / 2 := by
  have h : ⌊(-(1 / 2) : ℝ)⌋ = -1 := by rw [Int.floor_eq_iff]; norm_num
  rw [h]
  norm_num [abs_lt]

/-- Samples that denote a number, both infinities and none. -/
theorem test_witness_sample_values : (Sample.num 1).value Config.idealUnit = some (((1 : ℚ) : ℝ) : EReal) ∧ Sample.posInf.value Config.idealUnit = some ⊤ ∧
    Sample.negInf.value Config.idealUnit = some ⊥ ∧ Sample.nan.value Config.idealUnit = none ∧ quantize Config.idealUnit .even (.num 1) = some 32767 :=
  ⟨rfl, rfl, rfl, rfl, by decide +kernel⟩

/-- The clauses about real samples at their ends: 1 and -1, an ordered pair, and values on both sides of the smallest that give a code. -/
theorem test_witness_quantizer_ranges : (1 : ℝ) ≤ 1 ∧ (-1 : ℝ) ≤ -1 ∧ (-1 : ℝ) ≤ 1 ∧ (0 : ℝ) ≤ 0 ∧ (0 : ℝ) < 1 / 65534 ∧
    (1 / 65534 : ℝ) < 1 / 65533 ∧ -(1 / 65536 : ℝ) < 0 ∧ (-(1 / 65535) : ℝ) < -(1 / 65536) := by norm_num

/-- The first and the last tie of each branch: the last is 32766.5 above zero and -32767.5 below it. -/
theorem test_witness_ties : 0 < 32767 ∧ 32766 < 32767 ∧ 0 < 32768 ∧ 32767 < 32768 ∧ ((2 * 32766 + 1) / 65534 : ℝ) * 32767 = 32766.5 ∧
    -((2 * 32767 + 1) / 65536 : ℝ) * 32768 = -32767.5 := by norm_num

/-- The lowest rate a tone sample is bounded at, with the bound itself, and a choice of the samples with bound 0, the spec's default. -/
theorem test_witness_tone_code : 1 ≤ 1 ∧ |Config.toneUnit.tone 770 1336 1 1 - idealTone 770 1336 1 1| ≤ Config.toneUnit.sinEps ∧
    Config.idealUnit.sinEps = 0 ∧ Config.idealUnit.tone = idealTone :=
  ⟨by decide, Config.toneUnit.accurate 770 1336 1 1 (by decide), rfl, rfl⟩

/-- A state of the invariant with a tone sample and a zero on LINK. -/
theorem test_witness_samples_on_link : testEncode.Inv Config.toneUnit ∧ Sample.tone 770 1336 0 1000 ∈ testEncode.link ∧ Sample.num 0 ∈ testEncode.link :=
  ⟨test_inv_encode, by decide, by decide⟩

/-- A step that answers a next state, in which the parameters can be compared. -/
theorem test_witness_parameters : machineStep Config.toneUnit testLaunch = .next testSetup.launch ∧ testSetup.launch.params = testParams :=
  ⟨test_start_launches, rfl⟩

/-- The lowest and the highest rate and sample count of a header. -/
theorem test_witness_header : (1 ≤ 1 ∧ 1 < 2 ^ 31 ∧ 0 ≤ 2147483625) ∧ 1 ≤ 2147483647 ∧ 2147483647 < 2 ^ 31 ∧ 2147483625 ≤ 2147483625 := by
  decide

/-- A container with two samples, its sample indices, and another of the same length whose samples differ. -/
theorem test_witness_containers : container Config.toneUnit .away 1000 1 16 testLink = some testBytes ∧ 1 < testLink.length ∧
    (∃ b, container Config.toneUnit .away 1000 1 16 [.num 1, .posInf] = some b) ∧ testLink.length = [Sample.num 1, .posInf].length :=
  ⟨test_container, by decide, ⟨_, rfl⟩, rfl⟩

/-- A START whose container would not fit, outside BUSY and with a good format, and the first LINK that is too long for ENC. -/
theorem test_witness_container_too_long :
    let s : State := { testSetup with symCount := 0x7FFFFFFF }
    s.busy = false ∧ s.formatOk = true ∧ 2147483625 < s.symCount.toNat * (s.nsig + s.nsil) ∧
      2147483625 < ({ testEncode with link := List.replicate 2147483626 (.num 0) } : State).link.length ∧ testEncode.phase = .encode ∧
      testEncode.link.length ≤ 2147483625 ∧ Sample.nan ∉ testEncode.link :=
  ⟨by decide, by decide, by decide, by simp only [List.length_replicate]; decide, rfl, by decide, by decide⟩

theorem test_witness_completion : testComplete.Inv Config.toneUnit ∧ testComplete.pending = [] ∧ testComplete.phase = .complete := ⟨test_inv_complete, rfl, rfl⟩

/-- START outside BUSY, on the premises and off them. -/
theorem test_witness_start : testSetup.busy = false ∧ launchPremises testSetup ∧ (testSetup.setReg 3 0).busy = false ∧
    ¬ launchPremises (testSetup.setReg 3 0) :=
  ⟨by decide, test_setup_premises, by decide, fun h => absurd h.2.1 (by decide)⟩

theorem test_witness_busy : (testBusy .encode).busy = true ∧ (4 : Nat) ≠ 0 ∧ (0 : Nat) ≠ 1 := by decide

/-- The format check with each cause of its error at a boundary, and without one. -/
theorem test_witness_format_check : (testBusy .check).pending = [] ∧ (testBusy .check).phase = .check ∧
    ((testBusy .check).setReg 2 0).sampleRate.toInt ≤ 0 ∧ ((testBusy .check).setReg 2 0xFFFFFFFF).sampleRate.toInt ≤ 0 ∧
    ((testBusy .check).setReg 5 2).channels ≠ 1 ∧ ((testBusy .check).setReg 6 8).bits ≠ 16 ∧
    1 ≤ ((testBusy .check).setReg 2 1).sampleRate.toInt ∧ (testBusy .check).channels = 1 ∧ (testBusy .check).bits = 16 := by decide

/-- The validation pass over `"A"` and over `"5"`. -/
theorem test_witness_validation : (testBusy .validate).pending = [] ∧ (testBusy .validate).phase = .validate ∧
    0 < (testBusy .validate).symCount.toNat ∧ validCode (((testBusy .validate).setSym 0 0x41).symAt 0) = false ∧
    ∀ i, i < (testBusy .validate).symCount.toNat → validCode ((testBusy .validate).symAt i) = true := by decide

/-- `"A"` at a rate of 0 (V7): both causes are present. -/
theorem test_witness_invalid_format_first :
    let s := (testLaunch.setSym 0 0x41).setReg 2 0
    s.pending = [.writeReg 0 1] ∧ isStartWord 1 ∧ s.busy = false ∧ launchPremises s ∧ s.formatOk = false ∧ s.allValid = false :=
  ⟨rfl, by decide, by decide, ⟨test_setup_premises.1, by decide, by decide⟩, by decide, by decide⟩

theorem test_witness_generated_length : testEncode.Inv Config.toneUnit ∧ testEncode.phase = .encode ∧ testEncode.link.length = 2 :=
  ⟨test_inv_encode, rfl, rfl⟩

theorem test_witness_block_step : ddcStep Config.toneUnit (testBusy .generate) = .next ((testBusy .generate).playRow 5) := rfl

/-- The generation pass before its one symbol and after it. -/
theorem test_witness_symbol_index : (testBusy .generate).Inv Config.toneUnit ∧ (testBusy .generate).pending = [] ∧ (testBusy .generate).phase = .generate ∧
    (testBusy .generate).pc < (testBusy .generate).symCount.toNat ∧ testPlayed.Inv Config.toneUnit ∧ testPlayed.pending = [] ∧
    testPlayed.phase = .generate ∧ ¬ testPlayed.pc < testPlayed.symCount.toNat :=
  ⟨test_inv_generate, rfl, rfl, by decide, test_inv_played, rfl, rfl, by decide⟩

/-- A running request at its first and at its last step. -/
theorem test_witness_running : (testBusy .check).Inv Config.toneUnit ∧ (testBusy .check).pending = [] ∧ (testBusy .check).busy = true ∧ testComplete.Inv Config.toneUnit ∧
    testComplete.pending = [] ∧ testComplete.busy = true := ⟨test_inv_check, rfl, rfl, test_inv_complete, rfl, rfl⟩

/-- A request that ends in DONE, with its one symbol, the last tone sample and the last gap sample. -/
theorem test_witness_request : testLaunch.pending = [.writeReg 0 1] ∧ isStartWord 1 ∧ testLaunch.busy = false ∧ launchPremises testLaunch ∧
    testLaunch.formatOk = true ∧ testLaunch.allValid = true ∧ 0 < testLaunch.symCount.toNat ∧ 0 < testLaunch.nsig ∧
    testLaunch.nsig ≤ 1 ∧ 1 < testLaunch.nsig + testLaunch.nsil :=
  ⟨rfl, by decide, by decide, test_setup_premises, by decide, by decide, by decide, by decide, by decide, by decide⟩

/-- Two machines with the same inputs and different histories: one has just failed, the other has a container. The premises are those of
`EqualInputsGiveEqualContainers`. -/
theorem test_witness_equal_inputs :
    let s : State := { testError with pending := [.writeReg 0 1] }
    let t : State := { testDone with pending := [.writeReg 0 3] }
    s.Inv Config.toneUnit ∧ t.Inv Config.toneUnit ∧ s.pending = [.writeReg 0 1] ∧ t.pending = [.writeReg 0 3] ∧ isStartWord 1 ∧ isStartWord 3 ∧ s.busy = false ∧
      t.busy = false ∧ launchPremises s ∧ launchPremises t ∧ t.params.roundTie = s.params.roundTie ∧ keepsConfig s t ∧ (∀ a, a < s.symCount.toNat → t.symAt a = s.symAt a) ∧ s.status ≠ t.status :=
  ⟨{ test_inv_error with }, { test_inv_done with }, rfl, rfl, by decide, by decide, by decide, by decide, test_setup_premises, test_setup_premises, rfl,
    ⟨rfl, rfl, rfl, rfl, rfl, rfl⟩, fun _ _ => rfl, by decide⟩

/-- START from a state of the invariant. -/
theorem test_inv_launch : testLaunch.Inv Config.toneUnit :=
  { test_inv_error with
    reserved := by decide
    errLegal := by decide
    errIff := by decide
    phaseIff := by decide
    lengthZero := fun _ => rfl
    whole := fun h => absurd h (by decide)
    premises := fun h => absurd h (by decide) }

/-- A step of each kind that changes `STATUS` without an error, from states that meet the invariant: completion, START and reset. -/
theorem test_witness_status_changes : testComplete.Inv Config.toneUnit ∧ step testComplete = .next testComplete.finish ∧
    testLaunch.Inv Config.toneUnit ∧ step testLaunch = .next testSetup.launch ∧
    step { testBusy .check with pending := [.reset] } = .next (testBusy .check).resetAll :=
  ⟨test_inv_complete, rfl, test_inv_launch, test_start_launches, rfl⟩

/-- A step that raises InvalidFormat, at a rate of 0, and one that raises InvalidSymbol, at `"A"`, each from a state that meets the invariant. -/
theorem test_witness_status_errors :
    let s : State := (testBusy .check).setReg 2 0
    let t : State := (testBusy .validate).setSym 0 0x41
    s.Inv Config.toneUnit ∧ s.busy = true ∧ s.phase = .check ∧ step s = .next (s.raiseError .invalidFormat) ∧
      t.Inv Config.toneUnit ∧ t.busy = true ∧ t.phase = .validate ∧ step t = .next (t.raiseError .invalidSymbol) :=
  ⟨{ test_inv_check with
      premises := fun _ => (launchRefusal_eq_none_iff _).mpr ⟨by decide, by decide, fun h => absurd h (by decide)⟩
      formatPassed := by decide
      symbolsPassed := by decide
      generating := fun h => absurd h (by decide)
      generated := fun h => absurd h (by decide)
      encoded := fun h => absurd h (by decide) }, by decide, by decide, rfl,
    { test_inv_validate with
      symWf := by decide
      symInside := by decide
      symbolsPassed := by decide
      generating := fun h => absurd h (by decide)
      generated := fun h => absurd h (by decide)
      encoded := fun h => absurd h (by decide) }, by decide, by decide, rfl⟩

/-- A host read in state ERROR; it is no START and no reset. -/
theorem test_witness_error_persists :
    let s : State := { testError with pending := [.readReg 1] }
    s.Inv Config.toneUnit ∧ s.runState = .error ∧ (∀ a rest, s.pending = a :: rest → ¬ startsOrResets a) ∧ step s = .next (testError.reply 7) :=
  ⟨{ test_inv_error with }, by decide, fun a rest h => (by cases h; exact id), rfl⟩

/-- A host write of the configuration in state DONE. -/
theorem test_witness_container_persists :
    let s : State := { testDone with pending := [.writeReg 2 8000] }
    s.Inv Config.toneUnit ∧ s.runState = .done ∧ (∀ a rest, s.pending = a :: rest → ¬ startsOrResets a) ∧ step s = .next (testDone.setReg 2 8000) :=
  ⟨{ test_inv_done with }, by decide, fun a rest h => (by cases h; rintro ⟨h, _⟩; cases h), rfl⟩

/-- Register numbers and addresses at the ends of their ranges, for reads, writes and accesses to no element. -/
theorem test_witness_host_accesses : testSetup.busy = false ∧ 8 ≤ 8 ∧ 0 < testSetup.params.maxSymbols ∧ 2 ≤ 2 ∧ 7 ≤ 7 ∧
    (0xFFFF : Word).toNat < 2 ^ 16 ∧ (2 : Word) &&& 1 = 0 ∧ 8 < 9 ∧ testSetup.params.maxSymbols ≤ 16 ∧ 15 < testSetup.params.maxSymbols := by decide

/-- A 16-bit register takes all 16 bits and no more. -/
theorem test_register_width : hostWriteReg 5 0xFFFF testSetup = .next (testSetup.setReg 5 0xFFFF) ∧ (testSetup.setReg 5 0xFFFF).regValue 5 = 0xFFFF ∧
    hostWriteReg 6 0x10000 testSetup = .refused (.valueTooWide 6) := ⟨rfl, by decide, rfl⟩
end

section
/-! Rounding at a tie and the quantizer's ties (R11, R169). -/

namespace Sys2Proof.Machine

section OrderedField

variable {K : Type} [Field K] [LinearOrder K] [IsStrictOrderedRing K] [FloorRing K]

/-- Away from a tie `round` is strictly within one half, under every tie rule. -/
theorem abs_roundTo_sub_lt (t : RoundTie) {v : K} (h : v - ⌊v⌋ ≠ 1 / 2) : |(roundTo t v : K) - v| < 1 / 2 := by
  have h₀ := Int.floor_le v
  have h₁ := Int.lt_floor_add_one v
  rw [abs_lt]
  rcases roundTo_cases t v with ⟨hr, hv⟩ | ⟨hr, hv⟩ <;> rw [hr] <;> push_cast
  · have := lt_of_le_of_ne hv h
    constructor <;> linarith
  · have := lt_of_le_of_ne hv h.symm
    constructor <;> linarith

theorem floor_intCast_add_half (n : Int) : ⌊(n : K) + 1 / 2⌋ = n := by
  rw [Int.floor_eq_iff]
  constructor <;> linarith [one_half_pos (α := K), one_half_lt_one (α := K)]

theorem intCast_add_half_neg_iff (n : Int) : (n : K) + 1 / 2 < 0 ↔ n < 0 := by
  constructor <;> intro h
  · have : (n : K) < 0 := by linarith [one_half_pos (α := K)]
    exact_mod_cast this
  · have : (n : K) ≤ -1 := by exact_mod_cast Int.le_sub_one_of_lt h
    linarith [one_half_lt_one (α := K)]

/-- `round` of the tie between `n` and `n + 1`, by tie rule (R11). -/
theorem roundTo_intCast_add_half (t : RoundTie) (n : Int) :
    roundTo t ((n : K) + 1 / 2) = match t with
      | .away => if n < 0 then n else n + 1
      | .up => n + 1
      | .even => if n % 2 = 0 then n else n + 1 := by
  have hf := floor_intCast_add_half (K := K) n
  rw [roundTo_tie t (by rw [hf]; ring), hf]
  cases t <;> simp only [intCast_add_half_neg_iff]

/-- At a tie `away` answers the integer farther from zero. -/
theorem abs_lt_abs_roundTo_away_half (n : Int) : |(n : K) + 1 / 2| < |((roundTo .away ((n : K) + 1 / 2) : Int) : K)| := by
  have hhalf := one_half_pos (α := K)
  rw [roundTo_intCast_add_half]
  dsimp only
  split_ifs with hn
  · have hv := (intCast_add_half_neg_iff (K := K) n).mpr hn
    rw [abs_of_neg hv, abs_of_neg (by exact_mod_cast hn)]
    linarith
  · have hv : (0 : K) ≤ n := by exact_mod_cast not_lt.mp hn
    rw [abs_of_nonneg (by linarith), abs_of_nonneg (by push_cast; linarith)]
    push_cast
    linarith [one_half_lt_one (α := K)]

/-- At a tie `even` answers the even one of the two integers. -/
theorem even_roundTo_even_half (n : Int) : Even (roundTo .even ((n : K) + 1 / 2)) := by
  rw [roundTo_intCast_add_half, Int.even_iff]
  dsimp only
  split_ifs <;> omega

/-- `away` treats both signs alike: the tie between `n` and `n + 1` mirrors the one between `-(n + 1)` and `-n`. -/
theorem roundTo_away_neg (v : K) : roundTo .away (-v) = -roundTo .away v := by
  by_cases h : v - ⌊v⌋ = 1 / 2
  · have hv : v = (⌊v⌋ : K) + 1 / 2 := by linarith
    have hneg : -v = ((-⌊v⌋ - 1 : Int) : K) + 1 / 2 := by push_cast; linarith
    rw [hneg, roundTo_intCast_add_half, hv, roundTo_intCast_add_half, floor_intCast_add_half]
    dsimp only
    split_ifs <;> omega
  · apply roundTo_eq_of_abs_lt
    have hd : ((-roundTo .away v : Int) : K) - -v = -((roundTo .away v : K) - v) := by push_cast; ring
    rw [hd, abs_neg]
    exact abs_roundTo_sub_lt .away h

/-- The code at a tie above zero: `(2k+1)/65534` is scaled to `k + 1/2` (R169). -/
theorem quantizeNum_pos_tie (t : RoundTie) {k : Nat} (hk : k < 32767) :
    quantizeNum t ((2 * k + 1) / 65534 : K) = roundTo t (((k : Int) : K) + 1 / 2) := by
  have hk' : (k : K) ≤ 32766 := by exact_mod_cast Nat.le_of_lt_succ hk
  have h₀ : (0 : K) ≤ (2 * k + 1) / 65534 := by positivity
  have h₁ : ((2 * k + 1) / 65534 : K) ≤ 1 := by rw [div_le_one (by norm_num)]; linarith
  rw [quantizeNum, scaled_of_nonneg h₀ h₁]
  congr 1
  push_cast
  ring

/-- The code at a tie below zero: `-(2k+1)/65536` is scaled to `-(k+1) + 1/2` (R169). -/
theorem quantizeNum_neg_tie (t : RoundTie) {k : Nat} (hk : k < 32768) :
    quantizeNum t (-((2 * k + 1) / 65536) : K) = roundTo t (((-(k + 1) : Int) : K) + 1 / 2) := by
  have hk' : (k : K) ≤ 32767 := by exact_mod_cast Nat.le_of_lt_succ hk
  have h₀ : (0 : K) < (2 * k + 1) / 65536 := by positivity
  have h₁ : ((2 * k + 1) / 65536 : K) ≤ 1 := by rw [div_le_one (by norm_num)]; linarith
  rw [quantizeNum, scaled_of_neg (by linarith) (by linarith)]
  congr 1
  push_cast
  ring

end OrderedField

/-- Settles O16: within one half and unique by the laws of `round`; at a tie `v` is `⌊v⌋ + 1/2`, where each rule's answer is known. -/
theorem roundIsNearestWithTieRule : Obligations.RoundIsNearestWithTieRule := by
  intro v
  refine ⟨fun t => ⟨?_, fun n => roundTo_eq_of_abs_lt t⟩, fun h => ?_, ?_⟩
  · obtain ⟨hlo, hhi⟩ := roundTo_bounds t v
    rw [abs_le]
    constructor <;> linarith
  · obtain ⟨n, rfl⟩ : ∃ n : Int, v = (n : ℝ) + 1 / 2 := ⟨⌊v⌋, by linarith⟩
    refine ⟨abs_lt_abs_roundTo_away_half n, ?_, even_roundTo_even_half n⟩
    rw [roundTo_intCast_add_half]
    push_cast
    linarith
  · rw [roundTo_away_neg, neg_neg]

/-- Settles O24: the scaled value is the tie above `k`, or the tie below `-k`, and `round` of a tie is known for each rule. -/
theorem quantizerTiesFollowTheRule : Obligations.QuantizerTiesFollowTheRule := by
  refine ⟨fun k hk => ?_, fun k hk => ?_⟩
  · simp only [quantizeNum_pos_tie _ hk, roundTo_intCast_add_half]
    refine ⟨if_neg (by omega), trivial, ?_⟩
    split_ifs <;> omega
  · simp only [quantizeNum_neg_tie _ hk, roundTo_intCast_add_half]
    refine ⟨if_pos (by omega), by omega, ?_⟩
    split_ifs <;> omega

end Sys2Proof.Machine
end

section
/-! No step writes the parameters or ROM (R7, R33). -/

namespace Sys2Proof.Machine

theorem execStart_keeps_params {s t : State} (h : execStart s = .next t) : t.params = s.params := by
  rcases execStart_cases h with ⟨_, rfl⟩ | ⟨_, _, rfl⟩
  · rfl
  · exact s.launch_params

theorem ddcStep_keeps_params {U : Config.ToneUnit} {s t : State} (h : ddcStep U s = .next t) : t.params = s.params := by
  rcases ddcStep_cases h with ⟨_, rfl⟩ | ⟨_, _, rfl⟩ | ⟨_, _, rfl⟩ | ⟨_, _, rfl⟩ | ⟨_, _, rfl⟩ | ⟨_, _, _, _, _, _, rfl⟩ |
    ⟨_, _, _, rfl⟩ | ⟨_, _, rfl⟩ | ⟨_, _, _, _, rfl⟩ | ⟨_, rfl⟩ <;> simp

theorem hostStep_keeps_params {U : Config.ToneUnit} {a : HostAction} {s t : State} (h : hostStep U a s = .next t) : t.params = s.params := by
  rcases hostStep_cases h with ⟨_, _, _, hstart⟩ | ⟨_, _, _, rfl⟩ | ⟨_, _, _, _, _, _, _, rfl⟩ | ⟨_, _, _, _, rfl⟩ | ⟨_, _, _, _, _, rfl⟩ |
    ⟨_, _, _, _, rfl⟩ | ⟨_, _, _, rfl⟩ | ⟨_, rfl⟩ | ⟨_, hddc⟩ | ⟨_, rfl⟩
  · exact execStart_keeps_params hstart
  · rfl
  · exact s.setReg_params _ _
  · exact s.reply_params _
  · exact s.setSym_params _ _
  · exact s.reply_params _
  · exact s.reply_params _
  · exact s.resetAll_params
  · exact ddcStep_keeps_params hddc
  · rfl

/-- Settles O55: each kind of step keeps the parameters, and ROM has one content only. -/
theorem parametersNeverChange : Obligations.ParametersNeverChange := by
  intro U s t h
  refine ⟨?_, rom_subsingleton _ _⟩
  rcases machineStep_cases h with ⟨_, hddc⟩ | ⟨a, rest, _, _, hhost⟩
  · exact ddcStep_keeps_params hddc
  · exact (hostStep_keeps_params hhost).trans (s.setPending_params rest)

end Sys2Proof.Machine
end

section
/-! What SYN has put on LINK (R135, R136). -/

namespace Sys2Proof.Machine

/-- A symbol's block under a state's configuration holds zeros and tone samples at its rate. -/
theorem mem_symbolBlock {s : State} {c : Byte} {x : Sample} (h : x ∈ symbolBlock s.params.roundTie s.config c) :
    x = .num 0 ∨ ∃ lo hi j, x = .tone lo hi j s.fs := by
  unfold symbolBlock at h
  split at h
  case h_1 row _ =>
    rcases mem_block h with ⟨j, hj⟩ | hz
    · exact .inr ⟨row.low, row.high, j, hj⟩
    · exact .inl hz
  case h_2 => exact absurd h List.not_mem_nil

theorem mem_linkAfter {s : State} {n : Nat} {x : Sample} (h : x ∈ s.linkAfter n) :
    x = .num 0 ∨ ∃ lo hi j, x = .tone lo hi j s.fs := by
  obtain ⟨c, _, hc⟩ := List.mem_flatMap.mp h
  exact mem_symbolBlock hc

/-- In a state of the invariant LINK is what SYN has written for some number of symbols, none where LINK is empty. -/
theorem State.Inv.link_eq_linkAfter {U : Config.ToneUnit} {s : State} (hinv : s.Inv U) : ∃ n, s.link = s.linkAfter n := by
  cases hp : s.phase with
  | rest | check | validate => exact ⟨0, by rw [hinv.linkEmpty (by simp [hp]), linkAfter_zero]⟩
  | generate =>
    obtain ⟨_, hlink, _⟩ := hinv.generating hp
    exact ⟨s.pc, hlink⟩
  | encode | complete =>
    obtain ⟨_, hlink⟩ := hinv.generated (by simp [hp])
    exact ⟨s.symbolCount, hlink⟩

/-- A sample that denotes a real number of the format is a value of the format. -/
theorem Sample.inFormat_of_value {U : Config.ToneUnit} {x : Sample} {r : EReal} (h : x.value U = some r) (hr : r ∈ U.fmt.denotes) : x.inFormat U := by
  rw [Sample.inFormat, h]
  exact hr

@[simp] theorem Sample.value_zero (U : Config.ToneUnit) : (Sample.num 0).value U = some ((0 : ℝ) : EReal) := by
  simp [Sample.value]

@[simp] theorem Sample.value_tone (U : Config.ToneUnit) (lo hi j fs : Nat) : (Sample.tone lo hi j fs).value U = some (U.tone lo hi j fs : EReal) := rfl

/-- Settles O56: LINK holds SYN's zeros and tone samples, and `SAMPLE_FMT` has both. -/
theorem synWritesNumbersOfTheFormat : Obligations.SynWritesNumbersOfTheFormat := by
  intro U s hinv x hx
  obtain ⟨n, hlink⟩ := hinv.link_eq_linkAfter
  have hkind := mem_linkAfter (hlink ▸ hx)
  have hval : ∃ r : ℝ, x.value U = some (r : EReal) ∧ (r : EReal) ∈ U.fmt.denotes := by
    rcases hkind with rfl | ⟨lo, hi, j, rfl⟩
    · exact ⟨0, Sample.value_zero U, U.fmt.zero⟩
    · exact ⟨_, Sample.value_tone U lo hi j s.fs, U.inFormat lo hi j s.fs⟩
  obtain ⟨r, hr, hmem⟩ := hval
  exact ⟨Sample.inFormat_of_value hr hmem, ⟨r, hr⟩, hkind⟩

end Sys2Proof.Machine
end

section
/-! A symbol sequence laid out in SYM (R80, R93). -/

namespace Sys2Proof.Machine

/-- The code of a keypad symbol decodes to it. -/
theorem encode_symbol {i : Instr} (h : i.isSymbol = true) : ∃ c, encode i = .sym8 c ∧ decodeSym c = .ok i := by
  cases i with
  | start => cases h
  | _ => exact ⟨_, rfl, rfl⟩

theorem validCode_of_decodeSym {c : Byte} {i : Instr} (h : decodeSym c = .ok i) : validCode c = true := by
  simp [validCode, h]

/-- A program of symbols has one byte per symbol, in order, and each byte decodes to its symbol. -/
theorem encodeProgram_decodes {prog : List Instr} (h : prog.all Instr.isSymbol = true) :
    List.Forall₂ (fun i c => decodeSym c = .ok i) prog (encodeProgram prog) := by
  induction prog with
  | nil => exact .nil
  | cons i rest ih =>
    obtain ⟨hi, hrest⟩ := Bool.and_eq_true_iff.mp h
    obtain ⟨c, hc, hd⟩ := encode_symbol hi
    simp only [encodeProgram, hc]
    exact .cons hd (ih hrest)

/-- An element of SYM inside a list of bytes written from address 0. -/
theorem symAt_of_sym_eq_writeList {t : State} {m : Memory} {bytes : List Byte} (h : t.sym = m.writeList 0 bytes) {p : Nat}
    (hp : p < bytes.length) : t.symAt p = bytes[p] := by
  have hread := Memory.read_writeList m 0 bytes p hp
  rw [Nat.zero_add] at hread
  rw [State.symAt, h, hread, Option.getD_some]

/-- Settles O4: each byte of the program decodes to its symbol, and SYM holds the byte at the symbol's index. -/
theorem symbolSequenceReadsBackFromSym : Obligations.SymbolSequenceReadsBackFromSym := by
  intro prog s hwf t
  simp only [programWellFormed, Bool.and_eq_true, decide_eq_true_eq] at hwf
  obtain ⟨⟨hsym, _⟩, hlt⟩ := hwf
  have hcodes := encodeProgram_decodes hsym
  have hcount : t.symbolCount = prog.length := by
    rw [State.symbolCount, BitVec.toNat_ofNat, Nat.mod_eq_of_lt hlt]
  have hfetch : ∀ p (h : p < prog.length), decodeSym (t.symAt p) = .ok prog[p] := by
    intro p hp
    have hp' : p < (encodeProgram prog).length := hcodes.length_eq ▸ hp
    rw [symAt_of_sym_eq_writeList (t := t) rfl hp']
    exact hcodes.get hp hp'
  refine ⟨hcount, (allValid_iff t).mpr fun p hp => ?_, hfetch⟩
  exact validCode_of_decodeSym (hfetch p (hcount ▸ hp))

end Sys2Proof.Machine
end

section
/-! The host's accesses to registers and memories (R20, R34, R36, R50, R281). -/

namespace Sys2Proof.Machine

/-- An element of SYM is the byte written there or, for lack of one, names the reset it has been unspecified since. -/
theorem symAt_congr {s t : State} {a : Nat} (hsym : t.sym.read a = s.sym.read a) (hreset : t.resetCount = s.resetCount) :
    t.symAt a = s.symAt a := by
  rw [State.symAt, State.symAt, hsym, hreset]

theorem keepsSym_of_eq {s t : State} (hsym : t.sym = s.sym) (hreset : t.resetCount = s.resetCount) (hparams : t.params = s.params) :
    keepsSym s t :=
  ⟨fun _ => by rw [hsym], fun _ => symAt_congr (by rw [hsym]) hreset, rom_subsingleton _ _, hparams⟩

/-! Register writes. -/

/-- A register write outside BUSY that names a register and fits it. -/
theorem hostStep_writeReg {U : Config.ToneUnit} {s : State} {n : Nat} {v : Word} (hb : s.busy = false) (h₀ : n ≠ 0) (h₈ : n ≤ 8)
    (hfit : n = 5 ∨ n = 6 → v.toNat < 2 ^ 16) : hostStep U (.writeReg n v) s = .next (s.setReg n v) := by
  have hfits : fitsReg n v = true := by
    unfold fitsReg
    split_ifs with hn
    · exact decide_eq_true (hfit hn)
    · rfl
  simp [hostStep, hostWriteReg, h₀, Nat.not_lt.mpr h₈, hb, hfits]

/-- Zero-extension undoes a truncation that loses nothing. -/
theorem setWidth_setWidth_of_fits {v : Word} (h : v.toNat < 2 ^ 16) : (v.setWidth 16).setWidth 32 = v :=
  BitVec.eq_of_toNat_eq (by simp only [BitVec.toNat_setWidth]; omega)

/-- A read-write register holds what is written. -/
theorem regValue_setReg_same (s : State) {n : Nat} {v : Word} (h₂ : 2 ≤ n) (h₇ : n ≤ 7) (hfit : n = 5 ∨ n = 6 → v.toNat < 2 ^ 16) :
    (s.setReg n v).regValue n = v := by
  match n, h₂, h₇ with
  | 2, _, _ | 3, _, _ | 4, _, _ | 7, _, _ => rfl
  | 5, _, _ | 6, _, _ => exact setWidth_setWidth_of_fits (hfit (by decide))

/-- A register write leaves every other register alone. -/
theorem regValue_setReg_other (s : State) {n m : Nat} (v : Word) (h : m ≠ n) : (s.setReg n v).regValue m = s.regValue m := by
  unfold State.setReg
  split
  case h_7 => rfl
  all_goals
    unfold State.regValue
    split <;> simp_all

/-- Settles O50: the write is `setReg`, whose laws say what each register and every other field then holds. -/
theorem registerWriteReadsBack : Obligations.RegisterWriteReadsBack := by
  intro U s n v hb h₂ h₇ hfit
  refine ⟨s.setReg n v, hostStep_writeReg hb (by omega) (by omega) hfit, regValue_setReg_same s h₂ h₇ hfit,
    fun m hm => regValue_setReg_other s v hm, keepsSym_of_eq (by simp) (by simp) (by simp), ?_⟩
  simp [keepsOut, keepsWork, keepsHost]

/-- A `CTRL` write with bit 0 clear is no command (R82). -/
theorem decodeCmd_of_bit_clear {v : Word} (h : v &&& 1 = 0) : decodeCmd v = .error (.noCommand v) := by
  have hbit : v.getLsbD 0 = false := by simpa using congrArg (BitVec.getLsbD · 0) h
  rw [decodeCmd, hbit]
  rfl

/-- Settles O51: `setReg` has no effect on the read-only registers, and the decoder finds no command where bit 0 is clear. -/
theorem writesWithoutEffect : Obligations.WritesWithoutEffect := by
  intro U s v
  refine ⟨fun hb => ⟨?_, ?_⟩, fun hv => ?_⟩
  · exact hostStep_writeReg hb (by decide) (by decide) (by omega)
  · exact hostStep_writeReg hb (by decide) (by decide) (by omega)
  · simp [hostStep, hostWriteReg, decodeCmd_of_bit_clear hv]

/-! Writes to SYM. -/

theorem hostStep_writeSym {U : Config.ToneUnit} {s : State} {a : Nat} (c : Byte) (hb : s.busy = false) (ha : a < s.params.maxSymbols) :
    hostStep U (.writeSym a c) s = .next (s.setSym a c) := by
  simp [hostStep, hostWriteSym, ha, hb]

@[simp] theorem symAt_setSym_same (s : State) (a : Nat) (c : Byte) : (s.setSym a c).symAt a = c := by
  simp [State.symAt]

theorem symAt_setSym_other (s : State) {a b : Nat} (c : Byte) (h : b ≠ a) : (s.setSym a c).symAt b = s.symAt b :=
  symAt_congr (by simp [Memory.read_write_other _ c h]) rfl

@[simp] theorem regValue_setSym (s : State) (a : Nat) (c : Byte) (n : Nat) : (s.setSym a c).regValue n = s.regValue n := rfl

/-- Settles O52: the write is `setSym`, which writes the one element and no other field. -/
theorem symWriteReadsBack : Obligations.SymWriteReadsBack := by
  intro U s a c hb ha
  refine ⟨s.setSym a c, hostStep_writeSym c hb ha, symAt_setSym_same s a c, fun b hne => symAt_setSym_other s c hne, ?_⟩
  simp [keepsOut, keepsWork, keepsHost]

/-! Reads. -/

/-- Settles O49: outside BUSY a read of an element that exists is `reply`, which changes the host's answers only. -/
theorem readsAnswerAndChangeNothing : Obligations.ReadsAnswerAndChangeNothing := by
  intro U s hb
  refine ⟨fun n hn => ⟨s.reply (s.regValue n), ?_, rfl⟩, fun a ha => ?_, fun a => ?_, rfl⟩
  · simp [hostStep, hostReadReg, Nat.not_lt.mpr hn, hb]
  · simp [hostStep, hostReadSym, ha, hb, State.reply]
  · simp [hostStep, hostReadOut, hb, State.reply]

/-- Settles O54: the check that the element exists comes before everything else an access does. -/
theorem accessesToNoElementStop : Obligations.AccessesToNoElementStop := by
  intro U s
  refine ⟨fun n v hn => ⟨?_, ?_⟩, fun a c ha => ⟨?_, ?_⟩⟩
  · simp [hostStep, hostWriteReg, show n ≠ 0 by omega, hn]
  · simp [hostStep, hostReadReg, hn]
  · simp [hostStep, hostWriteSym, Nat.not_lt.mpr ha]
  · simp [hostStep, hostReadSym, Nat.not_lt.mpr ha]

end Sys2Proof.Machine
end

section
/-! Reset (R38, R270). -/

namespace Sys2Proof.Machine

@[simp] theorem runState_reset : State.reset.runState = .idle := by decide

@[simp] theorem regValue_resetAll (s : State) (n : Nat) : s.resetAll.regValue n = State.reset.regValue n := rfl

@[simp] theorem runState_resetAll (s : State) : s.resetAll.runState = .idle := (State.runState_congr rfl).trans runState_reset

/-- Outside DONE the host sees no byte of OUT. -/
theorem outSeenByHost_of_not_done {s : State} (h : s.runState ≠ .done) (a : Nat) :
    s.outSeenByHost a = Config.outUnspecified s.runCount a := by
  simp [State.outSeenByHost, h]

/-- With nothing written to SYM, every element is unspecified. -/
theorem symAt_of_sym_nil {s : State} (h : s.sym = []) (a : Nat) : s.symAt a = Config.symUnspecified s.resetCount a := by
  simp [State.symAt, h]

/-- Settles O5: the fields of the reset state, with SYM unwritten and no container shown. -/
theorem resetStateIsTheTable : Obligations.ResetStateIsTheTable :=
  ⟨rfl, rfl, rfl, rfl, rfl, rfl, rfl, rfl, rfl, runState_reset, rfl, rfl, rfl, symAt_of_sym_nil rfl,
    outSeenByHost_of_not_done (by simp)⟩

/-- An action of the host other than `await` is taken off its list and takes effect (R59). -/
theorem machineStep_of_action {U : Config.ToneUnit} {s : State} {a : HostAction} {rest : List HostAction} (hp : s.pending = a :: rest)
    (ha : a ≠ .await) : machineStep U s = hostStep U a (s.setPending rest) := by
  rw [machineStep, hp]
  cases a with
  | await => exact absurd rfl ha
  | _ => rfl

/-- Settles O6: the step is `resetAll`, in any state. -/
theorem resetInputRestoresTheResetState : Obligations.ResetInputRestoresTheResetState := by
  intro s rest hp
  have hstep : step s = .next (s.setPending rest).resetAll := machineStep_of_action hp (by simp)
  refine ⟨_, hstep, fun n _ => regValue_resetAll _ n, ?_, rfl, rfl, rom_subsingleton _ _, symAt_of_sym_nil rfl,
    outSeenByHost_of_not_done (by simp), rfl, rfl⟩
  simp [State.busy_eq_false_iff]

end Sys2Proof.Machine
end

section
/-! The invariant: at reset, and after every step (R22, R31, R34 to R36, R139, R245, R276). -/

namespace Sys2Proof.Machine

section Invariant

variable {U : Config.ToneUnit} {s t : State}

/-! Outside a request most of the invariant is empty: what is left of it, by name. -/

/-- What the invariant asks of a state without a running request. -/
structure State.RestInv (s : State) : Prop where
  atRest : s.phase = .rest
  notBusy : s.busy = false
  symWf : Memory.wf s.sym
  outWf : Memory.wf s.out
  symInside : ∀ c ∈ s.sym, c.1 < s.params.maxSymbols
  reserved : reservedField s.status = 0
  errLegal : errField s.status ≠ 3
  errIff : errField s.status ≠ 0 ↔ s.runState = .error
  noLink : s.link = []
  lengthZero : s.runState = .idle ∨ s.runState = .error → s.outLen = 0
  whole : s.runState = .done → 44 ≤ s.outLen.toNat ∧ ∀ a, a < s.outLen.toNat → (s.out.read a).isSome

theorem State.RestInv.inv (h : s.RestInv) : s.Inv U :=
  { h with
    phaseIff := iff_of_true h.atRest h.notBusy
    linkEmpty := fun _ => h.noLink
    premises := by simp [h.notBusy]
    formatPassed := by simp [h.atRest]
    symbolsPassed := by simp [h.atRest]
    generating := by simp [h.atRest]
    generated := by simp [h.atRest]
    encoded := by simp [h.atRest] }

theorem State.Inv.rest (h : s.Inv U) (hb : s.busy = false) : s.RestInv :=
  have hp := h.phaseIff.mpr hb
  { h with atRest := hp, notBusy := hb, noLink := h.linkEmpty (.inl hp) }

theorem State.Inv.busy_of_phase (h : s.Inv U) (hp : s.phase ≠ .rest) : s.busy = true := by
  simpa using mt h.phaseIff.mpr hp

/-! Reset. -/

theorem restInv_reset : State.reset.RestInv where
  atRest := rfl
  notBusy := by decide
  symWf := .nil
  outWf := .nil
  symInside := by simp [State.reset]
  reserved := by decide
  errLegal := by decide
  errIff := by decide
  noLink := rfl
  lengthZero := fun _ => rfl
  whole := by simp

theorem State.restInv_resetAll (s : State) : s.resetAll.RestInv :=
  { restInv_reset with symInside := by simp [State.reset] }

/-! The host's accesses. -/

theorem State.Inv.setPending (h : s.Inv U) (p : List HostAction) : (s.setPending p).Inv U := { h with }

theorem State.Inv.reply (h : s.Inv U) (v : Word) : (s.reply v).Inv U := { h with }

theorem State.RestInv.setSym (h : s.RestInv) {a : Nat} (c : Byte) (ha : a < s.params.maxSymbols) : (s.setSym a c).RestInv :=
  { h with
    symWf := Memory.wf_write h.symWf a c
    symInside := fun x hx => by
      rcases Memory.mem_write hx with rfl | hx
      · exact ha
      · exact h.symInside x hx }

theorem State.RestInv.setReg (h : s.RestInv) (n : Nat) (v : Word) : (s.setReg n v).RestInv := by
  unfold State.setReg
  split <;> exact { h with }

/-! START. -/

theorem State.Inv.launch (h : s.Inv U) (hr : s.launchRefusal = none) : s.launch.Inv U where
  symWf := h.symWf
  outWf := h.outWf
  symInside := h.symInside
  reserved := by simp [h.reserved]
  errLegal := by simp
  errIff := by simp
  phaseIff := by simp [State.busy]
  linkEmpty := fun _ => rfl
  lengthZero := by simp
  whole := by simp
  premises := fun _ => hr
  formatPassed := by simp
  symbolsPassed := by simp
  generating := by simp
  generated := by simp
  encoded := by simp

/-! The steps of a request. -/

/-- A step that leaves BUSY shown leaves a request in progress. -/
theorem phase_rest_iff_of_busy (hb : s.busy = true) (ht : t.status = s.status) (hp : t.phase ≠ .rest) : t.phase = .rest ↔ t.busy = false :=
  iff_of_false hp (by simp [State.busy_congr ht, hb])

theorem State.Inv.raiseError (h : s.Inv U) (e : ErrorKind) : (s.raiseError e).Inv U :=
  State.RestInv.inv
    { symWf := h.symWf
      outWf := h.outWf
      symInside := h.symInside
      atRest := rfl
      notBusy := by simp [State.busy]
      reserved := by simp [h.reserved]
      errLegal := by cases e <;> simp [errorCode]
      errIff := by cases e <;> simp [errorCode]
      noLink := rfl
      lengthZero := fun _ => rfl
      whole := by simp }

theorem State.Inv.beginValidate (h : s.Inv U) (hp : s.phase = .check) (hf : s.formatOk = true) : s.beginValidate.Inv U :=
  { h with
    phaseIff := phase_rest_iff_of_busy (h.busy_of_phase (by simp [hp])) rfl (by simp)
    linkEmpty := fun _ => h.linkEmpty (by simp [hp])
    formatPassed := fun _ => hf
    symbolsPassed := by simp
    generating := by simp
    generated := by simp
    encoded := by simp }

theorem State.Inv.beginGenerate (h : s.Inv U) (hp : s.phase = .validate) (hv : s.allValid = true) : s.beginGenerate.Inv U :=
  have hlink : s.link = [] := h.linkEmpty (by simp [hp])
  { h with
    phaseIff := phase_rest_iff_of_busy (h.busy_of_phase (by simp [hp])) rfl (by simp)
    linkEmpty := fun _ => hlink
    formatPassed := fun _ => h.formatPassed (by simp [hp])
    symbolsPassed := fun _ => hv
    generating := fun _ => by simp [hlink]
    generated := by simp
    encoded := by simp }

/-- LINK after the symbol at `pc`, in the generation pass. -/
theorem State.Inv.link_playRow (h : s.Inv U) (hp : s.phase = .generate) {i : Instr} {k : Fin 12} (hi : decodeSym (s.symAt s.pc) = .ok i)
    (hk : toneRowOf i = some k) : (s.playRow k).link = s.linkAfter (s.pc + 1) := by
  obtain ⟨_, hlink, _⟩ := h.generating hp
  rw [linkAfter_succ, symbolBlock_of_decode hi hk, ← hlink, State.playRow_link, romRow_eq]

theorem State.Inv.playRow (h : s.Inv U) (hp : s.phase = .generate) (hpc : s.pc < s.symbolCount) {i : Instr} {k : Fin 12}
    (hi : decodeSym (s.symAt s.pc) = .ok i) (hk : toneRowOf i = some k) : (s.playRow k).Inv U :=
  { h with
    linkEmpty := by simp [hp]
    generating := fun _ => by
      obtain ⟨_, _, hwp⟩ := h.generating hp
      exact ⟨hpc, h.link_playRow hp hi hk, by simp [hwp, State.blockLen]⟩
    generated := by simp [hp]
    encoded := by simp [hp] }

theorem State.Inv.beginEncode (h : s.Inv U) (hp : s.phase = .generate) (hpc : ¬ s.pc < s.symbolCount) : s.beginEncode.Inv U :=
  { h with
    phaseIff := phase_rest_iff_of_busy (h.busy_of_phase (by simp [hp])) rfl (by simp)
    linkEmpty := by simp
    formatPassed := fun _ => h.formatPassed (by simp [hp])
    symbolsPassed := fun _ => h.symbolsPassed (by simp [hp])
    generating := by simp
    generated := fun _ => by
      obtain ⟨hle, hlink, _⟩ := h.generating hp
      have hend : s.pc = s.symbolCount := by omega
      exact ⟨hend, hend ▸ hlink⟩
    encoded := by simp }

theorem State.Inv.writeContainer (h : s.Inv U) (hp : s.phase = .encode) {bytes : List Byte}
    (hc : container U s.params.roundTie s.fs s.channels.toNat s.bits.toNat s.link = some bytes) : (s.writeContainer bytes).Inv U :=
  { h with
    outWf := Memory.wf_writeList h.outWf 0 bytes
    phaseIff := phase_rest_iff_of_busy (h.busy_of_phase (by simp [hp])) rfl (by simp)
    linkEmpty := by simp
    whole := fun hd => by
      have hbusy := (State.busy_eq_true_iff s).mp (h.busy_of_phase (by simp [hp]))
      rw [State.runState_congr (State.writeContainer_status s bytes), hbusy] at hd
      cases hd
    formatPassed := fun _ => h.formatPassed (by simp [hp])
    symbolsPassed := fun _ => h.symbolsPassed (by simp [hp])
    generating := by simp
    generated := fun _ => h.generated (.inl hp)
    encoded := fun _ => ⟨bytes, hc, rfl, fun a ha => by simpa using Memory.read_writeList s.out 0 bytes a ha⟩ }

/-- When generation is over LINK holds `N` blocks (R140). -/
theorem State.Inv.length_link_of_generated (h : s.Inv U) (hp : s.phase = .encode ∨ s.phase = .complete) : s.link.length = s.sampleCount := by
  obtain ⟨_, hlink⟩ := h.generated hp
  have hvalid := (allValid_iff s).mp (h.symbolsPassed (.inr hp))
  rw [hlink, length_linkAfter hvalid, State.sampleCount]

/-- The launch premises keep the container within 32 bits (R276, P3). -/
theorem State.Inv.containerLength_lt (h : s.Inv U) (hp : s.phase = .encode ∨ s.phase = .complete) :
    containerLength s.link.length < 2 ^ 32 := by
  have hbusy : s.busy = true := h.busy_of_phase (by rcases hp with hp | hp <;> simp [hp])
  obtain ⟨_, _, hfits⟩ := (launchRefusal_eq_none_iff s).mp (h.premises hbusy)
  have hle : containerLength s.sampleCount ≤ 2 ^ 32 - 1 := hfits (h.formatPassed (.inr (.inr hp)))
  rw [h.length_link_of_generated hp]
  omega

theorem State.Inv.finish (h : s.Inv U) (hp : s.phase = .complete) : s.finish.Inv U :=
  State.RestInv.inv
    { symWf := h.symWf
      outWf := h.outWf
      symInside := h.symInside
      atRest := rfl
      notBusy := by simp [State.busy]
      reserved := by simp [h.reserved]
      errLegal := by simp
      errIff := by simp
      noLink := rfl
      lengthZero := by simp
      whole := fun _ => by
        obtain ⟨bytes, hc, _, hread⟩ := h.encoded hp
        obtain ⟨_, _, _, hlen⟩ := container_some hc
        have hout : s.finish.outLen.toNat = bytes.length := by
          rw [State.finish_outLen, BitVec.toNat_ofNat, Nat.mod_eq_of_lt (h.containerLength_lt (.inr hp)), containerLength, hlen]
        rw [hout]
        exact ⟨by omega, fun a ha => by rw [State.finish_out, hread a ha]; rfl⟩ }

/-! Every step. -/

theorem execStart_keeps_inv (h : s.Inv U) (hstep : execStart s = .next t) : t.Inv U := by
  rcases execStart_cases hstep with ⟨_, rfl⟩ | ⟨_, hr, rfl⟩
  · exact h
  · exact h.launch hr

theorem ddcStep_keeps_inv (h : s.Inv U) (hstep : ddcStep U s = .next t) : t.Inv U := by
  rcases ddcStep_cases hstep with ⟨_, rfl⟩ | ⟨hp, hf, rfl⟩ | ⟨_, _, rfl⟩ | ⟨hp, hv, rfl⟩ | ⟨_, _, rfl⟩ | ⟨hp, hpc, i, k, hi, hk, rfl⟩ |
    ⟨_, _, _, rfl⟩ | ⟨hp, hpc, rfl⟩ | ⟨hp, _, bytes, hc, rfl⟩ | ⟨hp, rfl⟩
  · exact h
  · exact h.beginValidate hp hf
  · exact h.raiseError _
  · exact h.beginGenerate hp hv
  · exact h.raiseError _
  · exact h.playRow hp hpc hi hk
  · exact h.raiseError _
  · exact h.beginEncode hp hpc
  · exact h.writeContainer hp hc
  · exact h.finish hp

theorem hostStep_keeps_inv (h : s.Inv U) {a : HostAction} (hstep : hostStep U a s = .next t) : t.Inv U := by
  rcases hostStep_cases hstep with ⟨_, _, _, hstart⟩ | ⟨_, _, _, rfl⟩ | ⟨n, v, _, _, _, hb, _, rfl⟩ | ⟨_, _, _, _, rfl⟩ |
    ⟨k, c, _, hk, hb, rfl⟩ | ⟨_, _, _, _, rfl⟩ | ⟨_, _, _, rfl⟩ | ⟨_, rfl⟩ | ⟨_, hddc⟩ | ⟨_, rfl⟩
  · exact execStart_keeps_inv h hstart
  · exact h
  · exact ((h.rest hb).setReg n v).inv
  · exact h.reply _
  · exact ((h.rest hb).setSym c hk).inv
  · exact h.reply _
  · exact h.reply _
  · exact s.restInv_resetAll.inv
  · exact ddcStep_keeps_inv h hddc
  · exact h

theorem machineStep_keeps_inv (h : s.Inv U) (hstep : machineStep U s = .next t) : t.Inv U := by
  rcases machineStep_cases hstep with ⟨_, hddc⟩ | ⟨a, rest, _, _, hhost⟩
  · exact ddcStep_keeps_inv h hddc
  · exact hostStep_keeps_inv (h.setPending rest) hhost

end Invariant

/-- Settles O9: the reset state has no request, and its memories list nothing. -/
theorem resetMeetsInvariant : Obligations.ResetMeetsInvariant := fun _ => restInv_reset.inv

/-- Settles O10: each step of DDC and each access of the host keeps the invariant, so every step of the machine does. -/
theorem stepKeepsInvariant : Obligations.StepKeepsInvariant :=
  ⟨fun _ _ _ h hstep => machineStep_keeps_inv h hstep, fun _ _ h hstep => machineStep_keeps_inv h hstep⟩

end Sys2Proof.Machine
end

section
/-! What a step of DDC leaves alone, and where STATUS and `OUT_LEN` change (R22, R29, R31 to R34, R224). -/

namespace Sys2Proof.Machine

section Steps

variable {U : Config.ToneUnit} {s t : State}

/-- A step of DDC writes none of the fields that `keepsConfig`, `keepsHost` and `keepsCounts` name, nor SYM. -/
theorem ddcStep_keeps_inputs (h : ddcStep U s = .next t) : keepsConfig s t ∧ keepsHost s t ∧ keepsCounts s t ∧ t.sym = s.sym := by
  rcases ddcStep_cases h with ⟨_, rfl⟩ | ⟨_, _, rfl⟩ | ⟨_, _, rfl⟩ | ⟨_, _, rfl⟩ | ⟨_, _, rfl⟩ | ⟨_, _, _, _, _, _, rfl⟩ |
    ⟨_, _, _, rfl⟩ | ⟨_, _, rfl⟩ | ⟨_, _, _, _, rfl⟩ | ⟨_, rfl⟩ <;> simp [keepsConfig, keepsHost, keepsCounts]

/-- After the validation pass the symbol at an index below `N` is valid. -/
theorem State.Inv.validCode_symAt (h : s.Inv U) (hp : s.phase = .generate) {a : Nat} (ha : a < s.symbolCount) : validCode (s.symAt a) = true :=
  (allValid_iff s).mp (h.symbolsPassed (.inl hp)) a ha

/-- The end of a running request, in DONE or in one of the two errors, as STATUS and `OUT_LEN` show it. -/
def endsRequest (s t : State) : Prop :=
  (s.busy = true ∧ s.phase = .complete ∧ t.runState = .done ∧ errField t.status = 0) ∨
  (s.busy = true ∧ s.phase = .check ∧ t.runState = .error ∧ errField t.status = 2 ∧ t.outLen = 0) ∨
  (s.busy = true ∧ s.phase = .validate ∧ t.runState = .error ∧ errField t.status = 1 ∧ t.outLen = 0)

/-- A step of DDC changes STATUS or `OUT_LEN` only where it ends the request. -/
theorem State.Inv.ddcStep_status (h : s.Inv U) (hstep : ddcStep U s = .next t) :
    (t.status = s.status ∧ t.outLen = s.outLen) ∨ endsRequest s t := by
  rcases ddcStep_cases hstep with ⟨_, rfl⟩ | ⟨_, _, rfl⟩ | ⟨hp, _, rfl⟩ | ⟨_, _, rfl⟩ | ⟨hp, _, rfl⟩ | ⟨_, _, _, _, _, _, rfl⟩ |
    ⟨hp, hpc, hbad, rfl⟩ | ⟨_, _, rfl⟩ | ⟨_, _, _, _, rfl⟩ | ⟨hp, rfl⟩
  · exact .inl ⟨rfl, rfl⟩
  · exact .inl ⟨rfl, rfl⟩
  · exact .inr (.inr (.inl ⟨h.busy_of_phase (by simp [hp]), hp, by simp [errorCode]⟩))
  · exact .inl ⟨rfl, rfl⟩
  · exact .inr (.inr (.inr ⟨h.busy_of_phase (by simp [hp]), hp, by simp [errorCode]⟩))
  · exact .inl ⟨rfl, rfl⟩
  · rw [h.validCode_symAt hp hpc] at hbad
    cases hbad
  · exact .inl ⟨rfl, rfl⟩
  · exact .inl ⟨rfl, rfl⟩
  · exact .inr (.inl ⟨h.busy_of_phase (by simp [hp]), hp, by simp⟩)

/-- Bit 0 of a `CTRL` write selects START (R82). -/
theorem isStartWord_of_getLsbD {v : Word} (h : v.getLsbD 0 = true) : isStartWord v := by
  refine BitVec.eq_of_getLsbD_eq fun i _ => ?_
  cases i <;> simp [h]

/-- What an access of the host does to STATUS and `OUT_LEN`. -/
theorem State.Inv.hostStep_status (h : s.Inv U) {a : HostAction} (hstep : hostStep U a s = .next t) :
    (t.status = s.status ∧ t.outLen = s.outLen) ∨ (∃ v, a = .writeReg 0 v ∧ isStartWord v ∧ s.busy = false ∧ t = s.launch) ∨
      endsRequest s t ∨ (a = .reset ∧ t = s.resetAll) := by
  rcases hostStep_cases hstep with ⟨v, ha, hv, hstart⟩ | ⟨_, _, _, rfl⟩ | ⟨n, v, _, _, _, _, _, rfl⟩ | ⟨_, _, _, _, rfl⟩ |
    ⟨_, _, _, _, _, rfl⟩ | ⟨_, _, _, _, rfl⟩ | ⟨_, _, _, rfl⟩ | ⟨ha, rfl⟩ | ⟨_, hddc⟩ | ⟨_, rfl⟩
  · rcases execStart_cases hstart with ⟨_, rfl⟩ | ⟨hb, _, rfl⟩
    · exact .inl ⟨rfl, rfl⟩
    · exact .inr (.inl ⟨v, ha, isStartWord_of_getLsbD hv, hb, rfl⟩)
  · exact .inl ⟨rfl, rfl⟩
  · exact .inl ⟨s.setReg_status n v, s.setReg_outLen n v⟩
  · exact .inl ⟨rfl, rfl⟩
  · exact .inl ⟨rfl, rfl⟩
  · exact .inl ⟨rfl, rfl⟩
  · exact .inl ⟨rfl, rfl⟩
  · exact .inr (.inr (.inr ⟨ha, rfl⟩))
  · rcases h.ddcStep_status hddc with hkeep | hend
    · exact .inl hkeep
    · exact .inr (.inr (.inl hend))
  · exact .inl ⟨rfl, rfl⟩

end Steps

/-- Settles O39: no step of DDC writes these fields, and what SYM reads depends on them alone. -/
theorem blockNeverWritesItsInputs : Obligations.BlockNeverWritesItsInputs := by
  intro U s t h
  obtain ⟨hconfig, hhost, hcounts, hsym⟩ := ddcStep_keeps_inputs h
  exact ⟨hconfig, keepsSym_of_eq hsym hcounts.1 (ddcStep_keeps_params h), hhost, hcounts⟩

/-- Settles O40: below `N` the symbol at `pc` is valid and is played; at `N` the pass is over. -/
theorem symbolIndexAdvancesByOne : Obligations.SymbolIndexAdvancesByOne := by
  intro U s h hidle hp
  rw [machineStep_of_idle_host hidle]
  refine ⟨fun hpc => ?_, fun hpc => ?_⟩
  · obtain ⟨i, k, hi, hk⟩ := decodeSym_of_valid (h.validCode_symAt hp hpc)
    exact ⟨s.playRow k, ddcStep_play hp hpc hi hk, rfl, hp⟩
  · obtain ⟨hle, _⟩ := h.generating hp
    exact ⟨s.beginEncode, ddcStep_generated hp hpc, Nat.le_antisymm hle (Nat.not_lt.mp hpc), rfl⟩

/-- Settles O45: DDC changes them only where it ends a request, the host only by START and reset. -/
theorem statusChangesOnlyWhereTheRulesSay : Obligations.StatusChangesOnlyWhereTheRulesSay := by
  intro U s t h hstep
  rcases machineStep_cases hstep with ⟨_, hddc⟩ | ⟨a, rest, hpend, _, hhost⟩
  · rcases h.ddcStep_status hddc with hkeep | hdone | hformat | hsymbol
    · exact .inl hkeep
    · exact .inr (.inr (.inl hdone))
    · exact .inr (.inr (.inr (.inl hformat)))
    · exact .inr (.inr (.inr (.inr (.inl hsymbol))))
  · rcases (h.setPending rest).hostStep_status hhost with hkeep | ⟨v, rfl, hv, hb, rfl⟩ | (hdone | hformat | hsymbol) | ⟨rfl, rfl⟩
    · exact .inl hkeep
    · exact .inr (.inl ⟨v, rest, hpend, hv, hb, by simp⟩)
    · exact .inr (.inr (.inl hdone))
    · exact .inr (.inr (.inr (.inl hformat)))
    · exact .inr (.inr (.inr (.inr (.inl hsymbol))))
    · exact .inr (.inr (.inr (.inr (.inr ⟨rest, hpend, rfl, rfl⟩))))

end Sys2Proof.Machine
end

section
/-! The host's list, taken one action at a time (R59, R82, R220). -/

namespace Sys2Proof.Machine

/-- An `await` that waits for a running request leaves the step to DDC. -/
theorem machineStep_of_await_busy {U : Config.ToneUnit} {s : State} {rest : List HostAction} (hp : s.pending = .await :: rest)
    (hb : s.busy = true) : machineStep U s = ddcStep U s := by
  simp [machineStep, hp, hb]

/-- With no request running an `await` is over: it is taken off the list. -/
theorem machineStep_of_await_done {U : Config.ToneUnit} {s : State} {rest : List HostAction} (hp : s.pending = .await :: rest)
    (hb : s.busy = false) : machineStep U s = hostStep U .await (s.setPending rest) := by
  simp [machineStep, hp, hb]

/-- A `CTRL` write of a command is the command's meaning (R82). -/
theorem hostStep_of_command (U : Config.ToneUnit) {v : Word} {i : Instr} (hv : decodeCmd v = .ok i) (s : State) :
    hostStep U (.writeReg 0 v) s = exec i s := by
  simp [hostStep, hostWriteReg, hv]

/-- Settles O8: a command is a `CTRL` write, which is an action other than `await`; an `await` is over exactly outside BUSY. -/
theorem stepRunsTheWrittenCommand : Obligations.StepRunsTheWrittenCommand := by
  intro s
  refine ⟨fun v rest i hp hv => ?_, fun a rest hp hwait => ?_, fun rest hp hb => machineStep_of_await_busy hp hb, step_of_idle_host⟩
  · calc step s = hostStep Config.toneUnit (.writeReg 0 v) (s.setPending rest) := machineStep_of_action hp (by simp)
      _ = exec i (s.setPending rest) := hostStep_of_command _ hv _
  · by_cases ha : a = .await
    · subst ha
      exact machineStep_of_await_done hp (hwait rfl)
    · exact machineStep_of_action hp ha

end Sys2Proof.Machine
end

section
/-! Decoding and encoding of both word formats (R81, R82, R91, R94). -/

namespace Sys2Proof.Machine

/-- The code word of an instruction decodes to it. -/
theorem decode_encode (i : Instr) : decode (encode i) = .ok i := by
  cases i <;> rfl

/-- A byte that is some instruction's code word decodes to that instruction. -/
theorem decodeSym_of_encode {c : Byte} {i : Instr} (h : encode i = .sym8 c) : decodeSym c = .ok i := by
  have hi := decode_encode i
  rwa [h] at hi

/-- The twelve symbol codes as the table of R81 lists them: the digits' run, `'*'` and `'#'`. -/
def isTableCode (c : Byte) : Prop :=
  (0x30 ≤ c.toNat ∧ c.toNat ≤ 0x39) ∨ c.toNat = 0x2A ∨ c.toNat = 0x23

/-- The code of a symbol is one of the table's. -/
theorem isTableCode_of_encode {c : Byte} {i : Instr} (h : encode i = .sym8 c) : isTableCode c := by
  unfold isTableCode
  cases i <;> cases h <;> decide

/-- Every element of SYM is the code of the symbol it decodes to, or lies outside the table and is rejected by name (R94). -/
theorem decodeSym_cases (c : Byte) :
    (∃ i, decodeSym c = .ok i ∧ encode i = .sym8 c) ∨ (decodeSym c = .error (.illegalSymbol c) ∧ ¬ isTableCode c) := by
  unfold decodeSym
  split
  case h_13 =>
    refine .inr ⟨rfl, ?_⟩
    simp only [imp_false] at *
    unfold isTableCode
    omega
  all_goals
    rename_i hc
    exact .inl ⟨_, rfl, congrArg CodeWord.sym8 (BitVec.eq_of_toNat_eq hc.symm)⟩

theorem decodeSym_eq_ok_iff {c : Byte} {i : Instr} : decodeSym c = .ok i ↔ encode i = .sym8 c := by
  refine ⟨fun h => ?_, decodeSym_of_encode⟩
  rcases decodeSym_cases c with ⟨k, hk, hcode⟩ | ⟨hbad, _⟩
  · obtain rfl : k = i := Except.ok.inj (hk.symm.trans h)
    exact hcode
  · cases hbad.symm.trans h

/-- The valid codes are the table's. -/
theorem validCode_iff_isTableCode {c : Byte} : validCode c = true ↔ isTableCode c := by
  constructor
  · intro h
    obtain ⟨i, _, hi, _⟩ := decodeSym_of_valid h
    exact isTableCode_of_encode (decodeSym_eq_ok_iff.mp hi)
  · intro h
    rcases decodeSym_cases c with ⟨i, hi, _⟩ | ⟨_, houtside⟩
    · exact validCode_of_decodeSym hi
    · exact absurd h houtside

/-- Settles O1: each word is a row of the tables or differs from every row in a bit that takes part in the match. -/
theorem decodesWordsOfTheTable : Obligations.DecodesWordsOfTheTable :=
  ⟨decode_encode .key5, decode_encode .keyStar, decode_encode .keyHash, decode_encode .start, rfl, rfl, rfl⟩

/-- Settles O2: the decoder answers `i` exactly on `i`'s code, so a byte selects at most one symbol, and one of the twelve codes at least one. -/
theorem everyByteIsOneSymbolOrIllegal : Obligations.EveryByteIsOneSymbolOrIllegal := by
  intro c
  refine ⟨validCode_iff_isTableCode, fun hvalid => ?_, fun _ => decodeSym_eq_ok_iff, fun hbad => ?_⟩
  · obtain ⟨i, k, hi, hrow⟩ := decodeSym_of_valid hvalid
    exact ⟨i, (isSymbol_iff_row i).mpr ⟨k, hrow⟩, hi, fun _ hj => Except.ok.inj (hj.symm.trans hi)⟩
  · rcases decodeSym_cases c with ⟨i, hi, _⟩ | ⟨hillegal, _⟩
    · cases hbad.symm.trans (validCode_of_decodeSym hi)
    · exact hillegal

/-- A `CTRL` write is START exactly if bit 0 is set (R82). -/
theorem decodeCmd_eq_start_iff {v : Word} : decodeCmd v = .ok .start ↔ isStartWord v := by
  constructor
  · intro h
    refine isStartWord_of_getLsbD ?_
    unfold decodeCmd at h
    split at h
    · assumption
    · cases h
  · intro h
    have hbit : v.getLsbD 0 = true := by simpa using congrArg (BitVec.getLsbD · 0) h
    rw [decodeCmd, if_pos hbit]

/-- Settles O3: bit 0 alone decides; no other bit enters. -/
theorem startIsBitZeroOfTheCtrlWrite : Obligations.StartIsBitZeroOfTheCtrlWrite :=
  fun _ => ⟨decodeCmd_eq_start_iff, decodeCmd_of_bit_clear⟩

end Sys2Proof.Machine
end

section
/-! The twelve symbols: the block each appends, their frame, and the table of tone pairs (R110 to R125, R137, R139). -/

namespace Sys2Proof.Machine

/-! What a symbol appends. -/

/-- A symbol's step leaves LINK's prefix as it was and its row's block behind it. -/
theorem appendsBlock_playRow (s : State) (k : Fin 12) : appendsBlock s (s.playRow k) romTable[k].low romTable[k].high := by
  have hprefix (a : Nat) (ha : a < s.link.length) : (s.playRow k).link[a]? = s.link[a]? := by
    rw [State.playRow_link, List.getElem?_append_left ha]
  have hblock (r : Nat) : (s.playRow k).link[s.link.length + r]? = (block romTable[k] s.fs s.nsig s.nsil)[r]? := by
    rw [State.playRow_link, romRow_eq, List.getElem?_append_right (Nat.le_add_right _ _), Nat.add_sub_cancel_left]
  refine ⟨rfl, rfl, by simp, hprefix, fun r hr => ?_, fun r hr => ?_⟩
  · rw [hblock, block_tone _ _ _ _ _ hr]
  · rw [Nat.add_assoc, hblock, block_gap _ _ _ _ _ (Nat.le_add_right _ _) (Nat.add_lt_add_left hr _)]

/-- A symbol completes in every state and appends the block of its row of ROM. -/
theorem exec_appendsBlock {i : Instr} {k : Fin 12} (h : toneRowOf i = some k) (s : State) :
    ∃ t, exec i s = .next t ∧ appendsBlock s t romTable[k].low romTable[k].high :=
  ⟨s.playRow k, exec_of_row h s, appendsBlock_playRow s k⟩

/-- Settles O12: the row of each symbol holds the pair its rule gives. -/
theorem eachSymbolAppendsItsBlock : Obligations.EachSymbolAppendsItsBlock := fun s =>
  ⟨exec_appendsBlock (i := .key0) rfl s, exec_appendsBlock (i := .key1) rfl s, exec_appendsBlock (i := .key2) rfl s,
    exec_appendsBlock (i := .key3) rfl s, exec_appendsBlock (i := .key4) rfl s, exec_appendsBlock (i := .key5) rfl s,
    exec_appendsBlock (i := .key6) rfl s, exec_appendsBlock (i := .key7) rfl s, exec_appendsBlock (i := .key8) rfl s,
    exec_appendsBlock (i := .key9) rfl s, exec_appendsBlock (i := .keyStar) rfl s, exec_appendsBlock (i := .keyHash) rfl s⟩

/-- Settles O13: a symbol's next state is its row played, which writes LINK, `pc`, `j` and `wp` only. -/
theorem symbolsLeaveAllElseAlone : Obligations.SymbolsLeaveAllElseAlone := by
  intro i s t hi hstep
  obtain ⟨k, hk⟩ := (isSymbol_iff_row i).mp hi
  obtain rfl : s.playRow k = t := Host.Outcome.next.inj ((exec_of_row hk s).symm.trans hstep)
  have hsym : keepsSym s (s.playRow k) := keepsSym_of_eq (by simp) (by simp) (by simp)
  simp [hsym, keepsConfig, keepsOut, keepsHost, keepsCounts]

/-! The table of tone pairs. -/

/-- The symbol of each row of ROM. -/
def symbolOfRow (k : Fin 12) : Instr :=
  #v[Instr.key0, .key1, .key2, .key3, .key4, .key5, .key6, .key7, .key8, .key9, .keyStar, .keyHash][k]

theorem toneRowOf_symbolOfRow (k : Fin 12) : toneRowOf (symbolOfRow k) = some k := by
  revert k; decide

/-- Each row belongs to one symbol. -/
theorem toneRowOf_eq_some_iff {i : Instr} {k : Fin 12} : toneRowOf i = some k ↔ i = symbolOfRow k := by
  constructor
  · intro h
    cases i <;> cases h <;> rfl
  · rintro rfl
    exact toneRowOf_symbolOfRow k

/-- A byte has the pair of a row exactly if it is the code of that row's symbol. -/
theorem tonePair_eq_some_iff {c : Byte} {row : ToneRow} :
    tonePair c = some row ↔ ∃ k, encode (symbolOfRow k) = .sym8 c ∧ romTable[k] = row := by
  constructor
  · intro h
    unfold tonePair at h
    split at h
    · rename_i i hi
      obtain ⟨k, hk, hrow⟩ := Option.map_eq_some_iff.mp h
      obtain rfl := toneRowOf_eq_some_iff.mp hk
      exact ⟨k, decodeSym_eq_ok_iff.mp hi, hrow⟩
    · cases h
  · rintro ⟨k, hc, rfl⟩
    simp [tonePair, decodeSym_of_encode hc, toneRowOf_symbolOfRow]

/-- Every row has a code. -/
theorem encode_symbolOfRow (k : Fin 12) : ∃ c, encode (symbolOfRow k) = .sym8 c := by
  obtain ⟨c, hc, _⟩ := encode_symbol ((isSymbol_iff_row _).mpr ⟨k, toneRowOf_symbolOfRow k⟩)
  exact ⟨c, hc⟩

/-- Each row of ROM is a row frequency with a higher column frequency (R122). -/
theorem romTable_in_grid (k : Fin 12) :
    romTable[k].low ∈ [697, 770, 852, 941] ∧ romTable[k].high ∈ [1209, 1336, 1477] ∧ romTable[k].low < romTable[k].high := by
  revert k; decide

/-- Every row frequency with every column frequency is a row of ROM (R124). -/
theorem exists_row_of_grid : ∀ lo ∈ [697, 770, 852, 941], ∀ hi ∈ [1209, 1336, 1477], ∃ k : Fin 12, romTable[k] = ⟨lo, hi⟩ := by
  decide

/-- No two rows of ROM hold the same pair (R124). -/
theorem romTable_injective : ∀ k l : Fin 12, romTable[k] = romTable[l] → k = l := by
  decide

/-- Settles O14: codes and rows of ROM correspond one to one, and so do rows of ROM and pairs of the grid. -/
theorem tonePairsAreABijection : Obligations.TonePairsAreABijection := by
  refine ⟨fun c row h => ?_, fun lo hlo hi hhi => ?_, fun c d row hc hd => ?_⟩
  · obtain ⟨k, _, rfl⟩ := tonePair_eq_some_iff.mp h
    exact romTable_in_grid k
  · obtain ⟨k, hk⟩ := exists_row_of_grid lo hlo hi hhi
    obtain ⟨c, hc⟩ := encode_symbolOfRow k
    exact ⟨c, tonePair_eq_some_iff.mpr ⟨k, hc, hk⟩⟩
  · obtain ⟨k, hk, hrow⟩ := tonePair_eq_some_iff.mp hc
    obtain ⟨l, hl, hrow'⟩ := tonePair_eq_some_iff.mp hd
    obtain rfl : k = l := romTable_injective k l (hrow.trans hrow'.symm)
    exact CodeWord.sym8.inj (hk.symm.trans hl)

end Sys2Proof.Machine
end

section
/-! Counts of samples: `roundDiv` is `round` of the exact quotient (R11, R131, R132). -/

namespace Sys2Proof.Machine

section Quotient

variable {K : Type} [Field K] [LinearOrder K] [IsStrictOrderedRing K] [FloorRing K]

/-- The rounded integer division answers `round` of the exact quotient: the remainder says on which side of the tie the quotient lies. -/
theorem roundTo_natCast_div (t : RoundTie) (p : Nat) {d : Nat} (hd : 0 < d) : roundTo t ((p : K) / d) = roundDiv t p d := by
  have hdK : (0 : K) < d := by exact_mod_cast hd
  have hp : (d : K) * (p / d : Nat) + (p % d : Nat) = p := by exact_mod_cast Nat.div_add_mod p d
  have hr : p % d < d := Nat.mod_lt p hd
  simp only [roundDiv]
  generalize p / d = q, p % d = r at *
  have hquot : (p : K) / d = q + r / d := by
    rw [← hp]
    field_simp
  rw [hquot]
  rcases Nat.lt_trichotomy (2 * r) d with hlt | htie | hgt
  · have hfrac : (r : K) / d < 1 / 2 := by
      rw [div_lt_div_iff₀ hdK two_pos]
      norm_cast
      omega
    have hfrac₀ : (0 : K) ≤ r / d := by positivity
    apply roundTo_eq_of_abs_lt
    rw [if_pos hlt, abs_lt]
    push_cast
    constructor <;> linarith
  · have hfrac : (r : K) / d = 1 / 2 := by
      rw [div_eq_div_iff hdK.ne' two_ne_zero]
      norm_cast
      omega
    rw [if_neg htie.not_lt, if_neg htie.not_gt, hfrac, ← Int.cast_natCast q, roundTo_intCast_add_half]
    cases t
    · exact if_neg (by omega)
    · rfl
    · dsimp only
      split_ifs <;> omega
  · have hfrac : 1 / 2 < (r : K) / d := by
      rw [div_lt_div_iff₀ two_pos hdK]
      norm_cast
      omega
    have hfrac₁ : (r : K) / d < 1 := by
      rw [div_lt_one hdK]
      exact_mod_cast hr
    apply roundTo_eq_of_abs_lt
    rw [if_neg hgt.not_gt, if_pos hgt, abs_lt]
    push_cast
    constructor <;> linarith

end Quotient

/-- Under `away` and `up`, and away from a tie under `even` too, a count is the integer formula. -/
theorem samplesOf_eq_formula {t : RoundTie} {fs d : Nat} (h : t ≠ .even ∨ fs * d % 1000000 ≠ 500000) :
    samplesOf t fs d = (fs * d + 500000) / 1000000 := by
  unfold samplesOf roundDiv
  generalize fs * d = p at *
  cases t
  case even =>
    have htie : p % 1000000 ≠ 500000 := h.resolve_left (fun hne => hne rfl)
    dsimp only
    split_ifs <;> omega
  all_goals
    dsimp only
    split_ifs <;> omega

/-- Settles O15: the integer division rounds as `round` does on the quotient; off a tie, or with a rule that goes up, it is the formula. -/
theorem sampleCountIsRoundedQuotient : Obligations.SampleCountIsRoundedQuotient := by
  refine ⟨fun t fs d => ⟨?_, fun ht => samplesOf_eq_formula (.inl ht), fun hne => ?_⟩, fun s => ⟨rfl, rfl⟩⟩
  · have h := roundTo_natCast_div (K := ℚ) t (fs * d) (d := 1000000) (by decide)
    push_cast at h
    exact h.symm
  · by_contra htie
    exact hne (samplesOf_eq_formula (.inr htie))

end Sys2Proof.Machine
end

section
/-! The tone sample and its code (R134, R135, R142, R163). -/

namespace Sys2Proof.Machine

/-- The code of a tone sample is `Q` of the real number it denotes (R163). -/
theorem quantize_tone (U : Config.ToneUnit) (t : RoundTie) (lo hi j fs : Nat) :
    quantize U t (.tone lo hi j fs) = some (quantizeNum t (U.tone lo hi j fs)) := by
  rw [quantize, U.codeEq]

/-- A unit without error evaluates the formula of R134 exactly. -/
theorem tone_eq_idealTone {U : Config.ToneUnit} (hU : U.sinEps = 0) (lo hi j : Nat) {fs : Nat} (hfs : 1 ≤ fs) :
    U.tone lo hi j fs = idealTone lo hi j fs := by
  have h := U.accurate lo hi j fs hfs
  rw [hU, abs_nonpos_iff] at h
  exact sub_eq_zero.mp h

/-- Settles O17: the number is the unit's `TONE`, of which R135 says all that is asked. -/
theorem toneCodeIsQuantizedNearIdeal : Obligations.ToneCodeIsQuantizedNearIdeal := by
  intro U t lo hi j fs hfs
  refine ⟨⟨U.tone lo hi j fs, Sample.value_tone U lo hi j fs, U.inFormat lo hi j fs, U.accurate lo hi j fs hfs, quantize_tone U t lo hi j fs⟩, fun hU => ?_⟩
  rw [quantize_tone, tone_eq_idealTone hU lo hi j hfs]

/-! The formula at a rate of 12 Hz. -/

/-- The first sample of every tone is 0. -/
theorem idealTone_zero (lo hi fs : Nat) : idealTone lo hi 0 fs = 0 := by simp [idealTone]

/-- Frequencies that differ by a multiple of the sample rate have the same samples: the angles differ by whole turns. -/
theorem idealTone_add_mul_rate (lo hi m n j : Nat) {fs : Nat} (hfs : fs ≠ 0) :
    idealTone (lo + m * fs) (hi + n * fs) j fs = idealTone lo hi j fs := by
  have hangle (f k : Nat) : 2 * Real.pi * (f + k * fs : Nat) * j / fs = 2 * Real.pi * f * j / fs + (k * j : Nat) * (2 * Real.pi) := by
    push_cast
    field_simp
  simp only [idealTone, hangle, Real.sin_add_nat_mul_two_pi]

/-- Symbol `'1'`: 697 and 1209 Hz stand at 30 and 270 degrees. -/
theorem idealTone_697_1209 : idealTone 697 1209 1 12 = -1 / 4 := by
  have hlo : 2 * Real.pi * (1 : Nat) * (1 : Nat) / (12 : Nat) = Real.pi / 6 := by push_cast; ring
  have hhi : 2 * Real.pi * (9 : Nat) * (1 : Nat) / (12 : Nat) = Real.pi / 2 + Real.pi := by push_cast; ring
  calc idealTone 697 1209 1 12 = idealTone 1 9 1 12 := idealTone_add_mul_rate 1 9 58 100 1 (fs := 12) (by decide)
    _ = 1 / 2 * (1 / 2 + -1) := by rw [idealTone, hlo, hhi, Real.sin_pi_div_six, Real.sin_add_pi, Real.sin_pi_div_two]
    _ = -1 / 4 := by norm_num

/-- Symbol `'5'`: 770 and 1336 Hz stand at 60 and 120 degrees. -/
theorem idealTone_770_1336 : idealTone 770 1336 1 12 = Real.sqrt 3 / 2 := by
  have hlo : 2 * Real.pi * (2 : Nat) * (1 : Nat) / (12 : Nat) = Real.pi / 3 := by push_cast; ring
  have hhi : 2 * Real.pi * (4 : Nat) * (1 : Nat) / (12 : Nat) = Real.pi - Real.pi / 3 := by push_cast; ring
  calc idealTone 770 1336 1 12 = idealTone 2 4 1 12 := idealTone_add_mul_rate 2 4 64 111 1 (fs := 12) (by decide)
    _ = 1 / 2 * (Real.sqrt 3 / 2 + Real.sqrt 3 / 2) := by rw [idealTone, hlo, hhi, Real.sin_pi_sub, Real.sin_pi_div_three]
    _ = Real.sqrt 3 / 2 := by ring

/-- `-1/4` is scaled to an integer, so no tie rule enters. -/
theorem quantizeNum_neg_quarter (t : RoundTie) : quantizeNum t (-1 / 4 : ℝ) = -8192 := by
  have hscaled : scaled (-1 / 4 : ℝ) = ((-8192 : Int) : ℝ) := by
    rw [scaled_of_neg (by norm_num) (by norm_num)]
    norm_num
  rw [quantizeNum, hscaled, roundTo_intCast]

/-- `√3 / 2` is scaled to within one half of 28377, about 0.05 above it. -/
theorem quantizeNum_half_sqrt_three (t : RoundTie) : quantizeNum t (Real.sqrt 3 / 2) = 28377 := by
  have hlo : 1.73203 < Real.sqrt 3 := by rw [Real.lt_sqrt (by norm_num)]; norm_num
  have hhi : Real.sqrt 3 < 1.73207 := by rw [Real.sqrt_lt' (by norm_num)]; norm_num
  rw [quantizeNum, scaled_of_nonneg (by linarith) (by linarith)]
  apply roundTo_eq_of_abs_lt
  rw [abs_lt]
  push_cast
  constructor <;> linarith

/-- Settles O18: the four sines are known by their angles, and the two scaled samples lie off every tie. -/
theorem toneFormulaAtExactAngles : Obligations.ToneFormulaAtExactAngles := by
  have hcodes (t : RoundTie) : quantizeNum t (idealTone 697 1209 1 12) = -8192 ∧ quantizeNum t (idealTone 770 1336 1 12) = 28377 := by
    rw [idealTone_697_1209, idealTone_770_1336]
    exact ⟨quantizeNum_neg_quarter t, quantizeNum_half_sqrt_three t⟩
  refine ⟨idealTone_697_1209, idealTone_770_1336, fun t => ?_, idealTone_zero⟩
  obtain ⟨hone, hfive⟩ := hcodes t
  exact ⟨hone, hfive, congrArg some hone, congrArg some hfive⟩

end Sys2Proof.Machine
end

section
/-! The validation pass and the generation pass (R138 to R140, R241, R245). -/

namespace Sys2Proof.Machine

/-- An error leaves its report and nothing else (R245). -/
theorem endsInError_raiseError (s : State) (e : ErrorKind) : endsInError s (s.raiseError e) (errorCode e) := by
  have hsym : keepsSym s (s.raiseError e) := keepsSym_of_eq rfl rfl rfl
  simp [endsInError, hsym, keepsConfig, keepsOut, keepsWork, keepsHost, keepsCounts]

/-- Settles O35: the pass reads the addresses below `N`, and one illegal code among them is enough. -/
theorem validationPassDecides : Obligations.ValidationPassDecides := by
  intro s hidle hp
  rw [step_of_idle_host hidle, ddcStep_validate hp]
  refine ⟨fun i hi hbad => ?_, fun hvalid => ?_⟩
  · have hfails : s.allValid = false := (allValid_eq_false_iff s).mpr ⟨i, hi, hbad⟩
    exact ⟨s.raiseError .invalidSymbol, by simp [hfails], endsInError_raiseError s .invalidSymbol⟩
  · rw [if_pos ((allValid_iff s).mpr hvalid)]
    rfl

/-- Settles O7: the fetched code is a symbol, and both the step and its meaning play its row. -/
theorem stepRunsTheFetchedSymbol : Obligations.StepRunsTheFetchedSymbol := by
  intro s i hidle hp hpc hi
  obtain ⟨k, hk⟩ := row_of_decodeSym hi
  calc step s = ddcStep Config.toneUnit s := step_of_idle_host hidle
    _ = .next (s.playRow k) := ddcStep_play hp hpc hi hk
    _ = exec i s := (exec_of_row hk s).symm

/-- Settles O37: the invariant says which symbols stand on LINK, and each has one block. -/
theorem generatedLengthLaw : Obligations.GeneratedLengthLaw :=
  fun _ _ h hp => h.length_link_of_generated (.inl hp)

end Sys2Proof.Machine
end

section
/-! The quantizer: its codes, their range and shape, and samples without a code (R160 to R170, R180). -/

namespace Sys2Proof.Machine

section OrderedField

variable {K : Type} [Field K] [LinearOrder K] [IsStrictOrderedRing K]

theorem clampTo_ratCast (v a b : ℚ) : clampTo (v : K) a b = (clampTo v a b : ℚ) := by
  simp only [clampTo, Rat.cast_lt, apply_ite (Rat.cast (K := K))]

/-- A rational that the model computes with scales as the real number it is. -/
theorem scaled_ratCast (v : ℚ) : scaled (v : K) = (scaled v : ℚ) := by
  have h := clampTo_ratCast (K := K) v (-1) 1
  push_cast at h
  simp only [scaled, h, Rat.cast_lt_zero, apply_ite (Rat.cast (K := K)), Rat.cast_mul, Rat.cast_ofNat]

variable [FloorRing K]

theorem roundTo_ratCast (t : RoundTie) (v : ℚ) : roundTo t (v : K) = roundTo t v := by
  have hlt : (v : K) - ⌊v⌋ < 1 / 2 ↔ v - ⌊v⌋ < 1 / 2 := by
    rw [← Rat.cast_lt (K := K)]
    push_cast
    rfl
  have hgt : 1 / 2 < (v : K) - ⌊v⌋ ↔ 1 / 2 < v - ⌊v⌋ := by
    rw [← Rat.cast_lt (K := K)]
    push_cast
    rfl
  simp only [roundTo, Rat.floor_cast, hlt, hgt, Rat.cast_lt_zero]

/-- `Q` computed on a rational is `Q` of the real number it is. -/
theorem quantizeNum_ratCast (t : RoundTie) (v : ℚ) : quantizeNum t (v : K) = quantizeNum t v := by
  rw [quantizeNum, scaled_ratCast, roundTo_ratCast, quantizeNum]

theorem quantizeNum_range (t : RoundTie) (v : K) : -32768 ≤ quantizeNum t v ∧ quantizeNum t v ≤ 32767 := by
  obtain ⟨hlow, hhigh⟩ := scaled_bounds v
  exact roundTo_between t (by exact_mod_cast hlow) (by exact_mod_cast hhigh)

theorem quantizeNum_mono (t : RoundTie) {v w : K} (h : v ≤ w) : quantizeNum t v ≤ quantizeNum t w :=
  roundTo_mono t (scaled_mono h)

theorem quantizeNum_of_one_le (t : RoundTie) {v : K} (h : 1 ≤ v) : quantizeNum t v = 32767 := by
  rw [quantizeNum, scaled_of_one_le h]
  exact_mod_cast roundTo_intCast (K := K) t 32767

theorem quantizeNum_of_le_neg_one (t : RoundTie) {v : K} (h : v ≤ -1) : quantizeNum t v = -32768 := by
  rw [quantizeNum, scaled_of_le_neg_one h]
  exact_mod_cast roundTo_intCast (K := K) t (-32768)

/-- Off the ties the code above zero is the integer nearest to the scaled value. -/
theorem quantizeNum_of_nonneg (t : RoundTie) {v : K} {n : Int} (h₀ : 0 ≤ v) (h₁ : v ≤ 1) (h : |(n : K) - v * 32767| < 1 / 2) :
    quantizeNum t v = n := by
  rw [quantizeNum, scaled_of_nonneg h₀ h₁, roundTo_eq_of_abs_lt t h]

/-- Off the ties the code below zero is the integer nearest to the scaled value. -/
theorem quantizeNum_of_neg (t : RoundTie) {v : K} {n : Int} (h₀ : v < 0) (h₁ : -1 ≤ v) (h : |(n : K) - v * 32768| < 1 / 2) :
    quantizeNum t v = n := by
  rw [quantizeNum, scaled_of_neg h₀ h₁, roundTo_eq_of_abs_lt t h]

/-- Just above zero the code is 0. -/
theorem quantizeNum_eq_zero_of_nonneg (t : RoundTie) {v : K} (h₀ : 0 ≤ v) (h : v < 1 / 65534) : quantizeNum t v = 0 := by
  refine quantizeNum_of_nonneg t h₀ (by linarith) (abs_lt.mpr ?_)
  push_cast
  constructor <;> linarith

/-- Just below zero the code is 0. -/
theorem quantizeNum_eq_zero_of_nonpos (t : RoundTie) {v : K} (h₀ : v ≤ 0) (h : -(1 / 65536) < v) : quantizeNum t v = 0 := by
  rcases h₀.eq_or_lt with rfl | hneg
  · exact quantizeNum_zero t
  · refine quantizeNum_of_neg t hneg (by linarith) (abs_lt.mpr ?_)
    push_cast
    constructor <;> linarith

/-- Beyond `1/65534` the scaled value is beyond one half. -/
theorem one_le_quantizeNum (t : RoundTie) {v : K} (h : 1 / 65534 < v) : 1 ≤ quantizeNum t v := by
  rcases le_total v 1 with hhigh | hhigh
  · have hround := (roundTo_bounds t (v * 32767)).1
    rw [quantizeNum, scaled_of_nonneg (by linarith) hhigh]
    have hpos : (0 : K) < roundTo t (v * 32767) := by linarith
    exact_mod_cast hpos
  · rw [quantizeNum_of_one_le t hhigh]
    decide

/-- Beyond `-1/65536` the scaled value is beyond minus one half. -/
theorem quantizeNum_le_neg_one (t : RoundTie) {v : K} (h : v < -(1 / 65536)) : quantizeNum t v ≤ -1 := by
  rcases le_total v (-1) with hlow | hlow
  · rw [quantizeNum_of_le_neg_one t hlow]
    decide
  · have hround := (roundTo_bounds t (v * 32768)).2
    rw [quantizeNum, scaled_of_neg (by linarith) hlow]
    have hneg : (roundTo t (v * 32768) : K) < 0 := by linarith
    exact Int.le_sub_one_of_lt (by exact_mod_cast hneg)

end OrderedField

/-! What a sample denotes, clamped, and its code. -/

theorem toReal_clamp_coe (v : ℝ) : (max (-1) (min (v : EReal) 1)).toReal = clampTo v (-1) 1 := by
  have hcoe : max (-1) (min (v : EReal) 1) = ((max (-1) (min v 1) : ℝ) : EReal) := by
    rw [EReal.coe_strictMono.monotone.map_max, EReal.coe_strictMono.monotone.map_min]; rfl
  rw [hcoe, EReal.toReal_coe, clampTo]
  split_ifs with hlow hhigh
  · rw [max_eq_left (by linarith [min_le_left v 1])]
  · rw [min_eq_right hhigh.le, max_eq_right (by norm_num)]
  · rw [min_eq_left (not_lt.mp hhigh), max_eq_right (not_lt.mp hlow)]

theorem toReal_clamp_top : (max (-1) (min (⊤ : EReal) 1)).toReal = 1 := by
  calc (max (-1) (min (⊤ : EReal) 1)).toReal = (max (-1) (min ((1 : ℝ) : EReal) 1)).toReal := by
        rw [EReal.coe_one, min_self, min_eq_right le_top]
    _ = clampTo 1 (-1) 1 := toReal_clamp_coe 1
    _ = 1 := by norm_num [clampTo]

theorem toReal_clamp_bot : (max (-1) (min (⊥ : EReal) 1)).toReal = -1 := by
  rw [min_eq_left bot_le, max_eq_left bot_le]
  rfl

/-- A sample that denotes a number has the code of a real number that clamps as it does: an infinity that of 1 or -1 (R161). -/
theorem exists_quantize_of_value {U : Config.ToneUnit} (t : RoundTie) {x : Sample} {r : EReal} (h : x.value U = some r) :
    ∃ v : ℝ, (max (-1) (min r 1)).toReal = clampTo v (-1) 1 ∧ quantize U t x = some (quantizeNum t v) := by
  cases x with
  | tone lo hi j fs =>
    cases h
    exact ⟨_, toReal_clamp_coe _, quantize_tone U t lo hi j fs⟩
  | num v =>
    cases h
    exact ⟨_, toReal_clamp_coe _, by rw [quantize, quantizeNum_ratCast]⟩
  | posInf =>
    cases h
    refine ⟨1, toReal_clamp_top.trans (by norm_num [clampTo]), ?_⟩
    rw [quantize, quantizeNum_of_one_le t le_rfl, quantizeNum_of_one_le t le_rfl]
  | negInf =>
    cases h
    refine ⟨-1, toReal_clamp_bot.trans (by norm_num [clampTo]), ?_⟩
    rw [quantize, quantizeNum_of_le_neg_one t le_rfl, quantizeNum_of_le_neg_one t le_rfl]
  | nan => cases h

theorem Sample.value_eq_none_iff (U : Config.ToneUnit) (x : Sample) : x.value U = none ↔ x = .nan := by cases x <;> simp [Sample.value]

/-- Settles O19: the model's `scaled` is the clamped number times the multiplier of its sign, and the worked example lies off every tie. -/
theorem quantizerClampsScalesRounds : Obligations.QuantizerClampsScalesRounds := by
  intro U t
  refine ⟨fun x => ⟨fun r hr => ?_, fun hnone => ?_⟩, ?_⟩
  · obtain ⟨v, hclamp, hcode⟩ := exists_quantize_of_value t hr
    obtain ⟨hlow, hhigh⟩ := scaled_bounds v
    refine ⟨?_, ?_, ?_⟩
    · rintro rfl
      exact toReal_clamp_top
    · rintro rfl
      exact toReal_clamp_bot
    · rw [hclamp]
      exact ⟨hlow, hhigh, hcode⟩
  · exact (quantize_eq_none_iff U t x).mpr ((Sample.value_eq_none_iff U x).mp hnone)
  · exact congrArg some (quantizeNum_of_nonneg t (by norm_num) (by norm_num) (by norm_num [abs_lt]))

/-- Settles O20: the scaled value lies between the two bounds, and a code between them reads back from its bytes. -/
theorem quantizerNeverLeavesSixteenBits : Obligations.QuantizerNeverLeavesSixteenBits := by
  refine ⟨quantizeNum_range, fun U t x q hq => ?_⟩
  obtain ⟨hlow, hhigh⟩ := quantize_range hq
  exact ⟨hlow, hhigh, i16le q, by rw [frame, hq, Option.map_some], length_i16le q, fieldI16_i16le hlow hhigh⟩

/-- Settles O22: beyond 1 and -1 the clamp gives the bound, and both sines of the ideal sample lie within them. -/
theorem quantizerSaturates : Obligations.QuantizerSaturates := by
  refine ⟨fun t v => ⟨quantizeNum_of_one_le t, quantizeNum_of_le_neg_one t⟩, fun U t => ⟨?_, ?_, ?_, ?_⟩, fun lo hi j fs => ?_⟩
  · exact congrArg some (quantizeNum_of_one_le t (by norm_num))
  · exact congrArg some (quantizeNum_of_le_neg_one t (by norm_num))
  · exact congrArg some (quantizeNum_of_one_le t le_rfl)
  · exact congrArg some (quantizeNum_of_le_neg_one t le_rfl)
  · exact abs_le.mp (abs_idealTone_le_one lo hi j fs)

/-- Settles O23: clamp, scale and `round` do not decrease, and each code named lies off the ties. -/
theorem quantizerIsMonotoneNotOdd : Obligations.QuantizerIsMonotoneNotOdd := by
  refine fun t => ⟨fun v w => quantizeNum_mono t, ?_, ?_, ?_, ?_, fun v => ⟨quantizeNum_eq_zero_of_nonneg t, one_le_quantizeNum t,
    quantizeNum_eq_zero_of_nonpos t, quantizeNum_le_neg_one t⟩⟩
  · apply quantizeNum_of_nonneg <;> norm_num [abs_lt]
  · apply quantizeNum_of_neg <;> norm_num [abs_lt]
  · apply quantizeNum_of_nonneg <;> norm_num [abs_lt]
  · apply quantizeNum_of_neg <;> norm_num [abs_lt]

/-- Settles O29: a container lacks a value where its data section does, and that is where a sample is not a number. -/
theorem onlyNanHasNoContainer : Obligations.OnlyNanHasNoContainer := by
  intro U t fs ch bits xs
  rw [container, Option.map_eq_none_iff, dataSection_eq_none_iff]

/-- The two bytes of a rational sample are those of its code. -/
theorem frame_num (U : Config.ToneUnit) {t : RoundTie} {v : ℚ} {q : Int} (h : quantizeNum t v = q) : frame U t (.num v) = some (i16le q) := by
  rw [frame, quantize, h, Option.map_some]

/-- Settles O21: the two ends saturate and zero scales to zero, in whichever field. -/
theorem quantizerBoundaryValues : Obligations.QuantizerBoundaryValues := by
  refine ⟨fun t => ⟨quantizeNum_of_one_le t le_rfl, quantizeNum_of_le_neg_one t le_rfl, quantizeNum_zero t⟩, fun U t => ⟨?_, ?_, ?_⟩⟩
  · exact frame_num U (quantizeNum_of_one_le t le_rfl)
  · exact frame_num U (quantizeNum_of_le_neg_one t le_rfl)
  · exact frame_num U (quantizeNum_zero t)

end Sys2Proof.Machine
end

section
/-! The container: its header, its length, its data section, and what the host reads of it (R182 to R201). -/

namespace Sys2Proof.Machine

/-! The header's bytes. -/

/-- The thirteen fields at their offsets (R86). -/
theorem header_slices (fs ch bits m : Nat) :
    let h := header fs ch bits m
    h.take 4 = tagRiff ∧ (h.drop 4).take 4 = u32le (36 + 2 * m) ∧ (h.drop 8).take 4 = tagWave ∧ (h.drop 12).take 4 = tagFmt ∧
      (h.drop 16).take 4 = u32le 16 ∧ (h.drop 20).take 2 = u16le 1 ∧ (h.drop 22).take 2 = u16le ch ∧ (h.drop 24).take 4 = u32le fs ∧
      (h.drop 28).take 4 = u32le (fs * ch * 2) ∧ (h.drop 32).take 2 = u16le (ch * 2) ∧ (h.drop 34).take 2 = u16le bits ∧
      (h.drop 36).take 4 = tagData ∧ (h.drop 40).take 4 = u32le (m * ch * 2) := by
  simp only [header, List.append_assoc]
  exact ⟨rfl, rfl, rfl, rfl, rfl, rfl, rfl, rfl, rfl, rfl, rfl, rfl, rfl⟩

theorem fieldU16_of_slice {l : List Byte} {a v : Nat} (h : (l.drop a).take 2 = u16le v) (hv : v < 2 ^ 16) : fieldU16 l a = v := by
  rw [← fieldU16_u16le hv, ← h]
  simp [fieldU16, byteAt_take, byteAt_drop]

theorem fieldU32_of_slice {l : List Byte} {a v : Nat} (h : (l.drop a).take 4 = u32le v) (hv : v < 2 ^ 32) : fieldU32 l a = v := by
  rw [← fieldU32_u32le hv, ← h]
  simp [fieldU32, byteAt_take, byteAt_drop]

/-- Settles O25: the four tags stand as they are, and each field is the little-endian form of a value that fits its width. -/
theorem headerFieldsHoldTheirValues : Obligations.HeaderFieldsHoldTheirValues := by
  intro fs m hpos hrate hcount h
  obtain ⟨hriff, h4, hwave, hfmt, h16, h20, h22, h24, h28, h32, h34, hdata, h40⟩ := header_slices fs 1 16 m
  have hbyteRate : fieldU32 h 28 = fs * 1 * 2 := fieldU32_of_slice h28 (by omega)
  have hdataSize : fieldU32 h 40 = m * 1 * 2 := fieldU32_of_slice h40 (by omega)
  exact ⟨length_header fs 1 16 m, hriff, fieldU32_of_slice h4 (by omega), hwave, hfmt, fieldU32_of_slice h16 (by omega),
    fieldU16_of_slice h20 (by omega), fieldU16_of_slice h22 (by omega), fieldU32_of_slice h24 (by omega), by omega,
    fieldU16_of_slice h32 (by omega), fieldU16_of_slice h34 (by omega), hdata, by omega⟩

/-- Lists with an equal slice have equal elements there. -/
theorem getElem?_eq_of_slice_eq {α : Type} {l l' : List α} (a n : Nat) (h : (l.drop a).take n = (l'.drop a).take n) {i : Nat}
    (hi : a ≤ i ∧ i < a + n) : l[i]? = l'[i]? := by
  have hslice : ∀ k : List α, ((k.drop a).take n)[i - a]? = k[i]? := fun k => by
    rw [List.getElem?_take_of_lt (by omega), List.getElem?_drop, Nat.add_sub_cancel' hi.1]
  rw [← hslice l, h, hslice]

/-- The header of a format differs only in its two size fields, with the count, and in its two rate fields, with the rate. -/
theorem header_getElem?_congr {fs gs ch bits m n i : Nat} (hi : i < 44) (hcount : 4 ≤ i ∧ i < 8 ∨ 40 ≤ i ∧ i < 44 → m = n)
    (hrate : 24 ≤ i ∧ i < 32 → fs = gs) : (header fs ch bits m)[i]? = (header gs ch bits n)[i]? := by
  have hslices : (0 ≤ i ∧ i < 4) ∨ (4 ≤ i ∧ i < 8) ∨ (8 ≤ i ∧ i < 24) ∨ (24 ≤ i ∧ i < 32) ∨ (32 ≤ i ∧ i < 40) ∨ (40 ≤ i ∧ i < 44) := by
    omega
  simp only [header, List.append_assoc]
  rcases hslices with h | h | h | h | h | h
  · exact getElem?_eq_of_slice_eq 0 4 (by rfl) h
  · obtain rfl := hcount (.inl h)
    exact getElem?_eq_of_slice_eq 4 4 (by rfl) h
  · exact getElem?_eq_of_slice_eq 8 16 (by rfl) h
  · obtain rfl := hrate h
    exact getElem?_eq_of_slice_eq 24 8 (by rfl) h
  · exact getElem?_eq_of_slice_eq 32 8 (by rfl) h
  · obtain rfl := hcount (.inr h)
    exact getElem?_eq_of_slice_eq 40 4 (by rfl) h

theorem container_getElem?_header {U : Config.ToneUnit} {t : RoundTie} {fs ch bits : Nat} {xs : List Sample} {bytes : List Byte}
    (h : container U t fs ch bits xs = some bytes) {i : Nat} (hi : i < 44) : bytes[i]? = (header fs ch bits xs.length)[i]? := by
  obtain ⟨d, _, rfl, _⟩ := container_some h
  exact List.getElem?_append_left (by rwa [length_header])

/-- Settles O28: a byte below 44 is the header's, and the header's bytes are the sizes', the rates' or fixed. -/
theorem headerIgnoresSampleContent : Obligations.HeaderIgnoresSampleContent := by
  intro U t fs gs xs ys a b ha hb i hi hcount hrate
  rw [container_getElem?_header ha hi, container_getElem?_header hb hi, header_getElem?_congr hi hcount hrate]

/-! The data section, and the length. -/

/-- Settles O27: a sample's two bytes are those of its code, which is in range and so reads back. -/
theorem containerHoldsEachSampleInOrder : Obligations.ContainerHoldsEachSampleInOrder := by
  intro U t fs ch bits xs bytes h
  obtain ⟨_, _, _, hlen⟩ := container_some h
  refine ⟨hlen, fun i hi => ?_⟩
  obtain ⟨q, hq, hframe⟩ := container_frame h hi
  obtain ⟨hlow, hhigh⟩ := quantize_range hq
  exact ⟨q, hq, (fieldI16_eq_of_take hframe).trans (fieldI16_i16le hlow hhigh), hframe⟩

theorem exec_start_refused {s : State} (hb : s.busy = false) (h : ¬ launchPremises s) : ∃ r, exec .start s = .refused r := by
  obtain ⟨r, hr⟩ := Option.ne_none_iff_exists'.mp (mt (launchRefusal_eq_none_iff s).mp h)
  exact ⟨r, by simp [exec, execStart, hb, hr]⟩

/-- Settles O26: the header's 44 bytes and two for each sample; beyond 32 bits the launch premise P3 fails. -/
theorem containerLengthIsHeaderPlusSamples : Obligations.ContainerLengthIsHeaderPlusSamples := by
  refine ⟨fun U t fs ch bits xs bytes h => ?_, fun s hb hformat hlong => exec_start_refused hb ?_⟩
  · obtain ⟨_, _, _, hlen⟩ := container_some h
    omega
  · rintro ⟨_, _, hfits⟩
    have hle := hfits hformat
    omega

/-! ENC. -/

theorem exists_container_of_numbers (U : Config.ToneUnit) (t : RoundTie) (fs ch bits : Nat) {xs : List Sample} (h : Sample.nan ∉ xs) :
    ∃ bytes, container U t fs ch bits xs = some bytes :=
  Option.ne_none_iff_exists'.mp (mt (onlyNanHasNoContainer U t fs ch bits xs).mp h)

theorem ddcStep_encode_too_long (U : Config.ToneUnit) {s : State} (hp : s.phase = .encode) (hl : 2 ^ 32 - 1 < containerLength s.link.length) :
    ddcStep U s = .refused .containerTooLong := by
  simp only [ddcStep, hp, State.encodeLink, if_pos hl]

/-- Settles O57: ENC asks the length first, and a LINK that passes and holds numbers has a container, whose bytes `wp` counts. -/
theorem encodingATooLongLinkIsRefused : Obligations.EncodingATooLongLinkIsRefused := by
  intro U s hp
  refine ⟨fun hlong => ddcStep_encode_too_long U hp (by unfold containerLength; omega), fun hfits hnumbers => ?_⟩
  obtain ⟨bytes, hc⟩ := exists_container_of_numbers U s.params.roundTie s.fs s.channels.toNat s.bits.toNat hnumbers
  obtain ⟨_, _, _, hlen⟩ := container_some hc
  exact ⟨s.writeContainer bytes, ddcStep_encode hp (by unfold containerLength; omega) hc, rfl, hlen⟩

/-! What the host reads at DONE. -/

section Completion

variable {U : Config.ToneUnit} {s : State} (h : s.Inv U) (hp : s.phase = .complete)
include h hp

theorem State.Inv.toNat_finish_outLen : s.finish.outLen.toNat = 44 + 2 * s.link.length := by
  rw [State.finish_outLen, BitVec.toNat_ofNat, Nat.mod_eq_of_lt (h.containerLength_lt (.inr hp)), containerLength]

/-- Completion shows the host the container that ENC wrote (R224). -/
theorem State.Inv.finish_shows :
    ∃ bytes, container U s.params.roundTie s.fs s.channels.toNat s.bits.toNat s.link = some bytes ∧ s.finish.shows (.ok bytes) := by
  obtain ⟨bytes, hc, _, hread⟩ := h.encoded hp
  obtain ⟨_, _, _, hlen⟩ := container_some hc
  have hout : s.finish.outLen.toNat = bytes.length := (h.toNat_finish_outLen hp).trans hlen.symm
  refine ⟨bytes, hc, State.runState_finish s, by simp, hout, fun a ha => ?_⟩
  rw [State.outSeenByHost, if_pos ⟨State.runState_finish s, hout ▸ ha⟩, State.finish_out, hread a ha, Option.getD_some]

end Completion

section Shown

variable {t : State} {l d : List Byte} {a : Nat} (h : t.shows (.ok (l ++ d)))
include h

theorem State.shows_byte (ha : a < l.length) : (t.outSeenByHost a).toNat = byteAt l a := by
  obtain ⟨_, _, _, hbytes⟩ := h
  rw [hbytes a (by simp; omega), List.getElem_append_left ha, byteAt, List.getD_eq_getElem _ _ ha]

theorem State.shows_outU16 (ha : a + 1 < l.length) : t.outU16 a = fieldU16 l a := by
  rw [State.outU16, fieldU16, State.shows_byte h ha, State.shows_byte h (by omega)]

theorem State.shows_outU32 (ha : a + 3 < l.length) : t.outU32 a = fieldU32 l a := by
  rw [State.outU32, fieldU32, State.shows_byte h ha, State.shows_byte h (by omega), State.shows_byte h (by omega), State.shows_byte h (by omega)]

end Shown

/-- A state that has passed the format check holds an accepted format (R181), its rate a positive 31-bit number (R14). -/
theorem format_of_formatOk {s : State} (h : s.formatOk = true) : (1 ≤ s.fs ∧ s.fs < 2 ^ 31) ∧ s.channels = 1 ∧ s.bits = 16 := by
  simp only [State.formatOk, Bool.and_eq_true, decide_eq_true_eq] at h
  obtain ⟨⟨hrate, hch⟩, hbits⟩ := h
  have htop := s.sampleRate.toInt_lt
  exact ⟨by unfold State.fs; omega, hch, hbits⟩

/-- Settles O30: the host reads the fields of the header, whose values stand in these relations. -/
theorem doneContainerFieldsAgree : Obligations.DoneContainerFieldsAgree := by
  intro U s hinv hidle hp
  refine ⟨s.finish, (machineStep_of_idle_host hidle).trans (ddcStep_complete hp), State.runState_finish s, ?_⟩
  obtain ⟨bytes, hc, hshows⟩ := hinv.finish_shows hp
  obtain ⟨d, _, rfl, _⟩ := container_some hc
  obtain ⟨⟨hpos, htop⟩, hch, hbits⟩ := format_of_formatOk (hinv.formatPassed (by simp [hp]))
  rw [hch, hbits] at hshows
  have hlt : 44 + 2 * s.link.length < 2 ^ 32 := hinv.containerLength_lt (.inr hp)
  obtain ⟨_, _, h4, _, _, _, _, h22, h24, h28, h32, h34, _, h40⟩ :=
    headerFieldsHoldTheirValues s.fs s.link.length hpos htop (by omega)
  have read16 : ∀ a, a + 1 < 44 → s.finish.outU16 a = fieldU16 (header s.fs 1 16 s.link.length) a := fun _ ha =>
    State.shows_outU16 hshows (by rwa [length_header])
  have read32 : ∀ a, a + 3 < 44 → s.finish.outU32 a = fieldU32 (header s.fs 1 16 s.link.length) a := fun _ ha =>
    State.shows_outU32 hshows (by rwa [length_header])
  simp only [read16, read32, Nat.reduceAdd, Nat.reduceLT, h4, h22, h24, h28, h32, h34, h40, hinv.toNat_finish_outLen hp]
  exact ⟨by omega, by omega, by omega, trivial, by omega⟩

end Sys2Proof.Machine
end

section
/-! START, completion, and what the host may do while BUSY (R220, R224, R276, R280). -/

namespace Sys2Proof.Machine

/-- Settles O33: a running request answers a second START with the state as it is. -/
theorem startWhileBusyIsIgnored : Obligations.StartWhileBusyIsIgnored := fun _ => execStart_busy

/-- Settles O31: on the premises START is `launch`, which writes STATUS and LINK and moves on to the format check. -/
theorem startBeginsTheRequest : Obligations.StartBeginsTheRequest := by
  intro s hb hprem
  refine ⟨s.launch, execStart_launch hb ((launchRefusal_eq_none_iff s).mpr hprem), ?_⟩
  have hsym : keepsSym s s.launch := keepsSym_of_eq rfl rfl rfl
  simp [hsym, keepsConfig, keepsOut, keepsWork, keepsHost]

/-- While BUSY a host action gets a step only if it is a `CTRL` write, a `STATUS` read or no access to a register or memory. -/
theorem hostStep_busy_cases {U : Config.ToneUnit} {a : HostAction} {s t : State} (hb : s.busy = true) (h : hostStep U a s = .next t) :
    (∃ v, a = .writeReg 0 v) ∨ a = .readReg 1 ∨ a = .reset ∨ a = .pause ∨ a = .await := by
  rcases hostStep_cases h with ⟨v, ha, _⟩ | ⟨v, ha, _⟩ | ⟨_, _, _, _, _, hfree, _⟩ | ⟨n, ha, _, hfree, _⟩ | ⟨_, _, _, _, hfree, _⟩ |
    ⟨_, _, _, hfree, _⟩ | ⟨_, _, hfree, _⟩ | ⟨ha, _⟩ | ⟨ha, _⟩ | ⟨ha, _⟩
  · exact .inl ⟨v, ha⟩
  · exact .inl ⟨v, ha⟩
  · simp [hb] at hfree
  · obtain rfl : n = 1 := by simpa [hb] using hfree
    exact .inr (.inl ha)
  · simp [hb] at hfree
  · simp [hb] at hfree
  · simp [hb] at hfree
  · exact .inr (.inr (.inl ha))
  · exact .inr (.inr (.inr (.inl ha)))
  · exact .inr (.inr (.inr (.inr ha)))

/-- While BUSY a `CTRL` write changes nothing: it is START, which is ignored, or no command. -/
theorem hostStep_ctrl_busy (U : Config.ToneUnit) {s : State} (hb : s.busy = true) (v : Word) : hostStep U (.writeReg 0 v) s = .next s := by
  cases hv : decodeCmd v with
  | ok i =>
    obtain rfl := decodeCmd_ok hv
    exact (hostStep_of_command U hv s).trans (execStart_busy hb)
  | error e => simp [hostStep, hostWriteReg, hv]

/-- Settles O53: of the accesses only the two that `hostStep_busy_cases` leaves get a step. -/
theorem busyAllowsOnlyStatusReads : Obligations.BusyAllowsOnlyStatusReads := by
  intro U s hb
  refine ⟨?_, hostStep_ctrl_busy U hb, fun n v t hn h => ?_, fun n t hn h => ?_, fun a c t h => ?_, fun a t h => ?_, fun a t h => ?_⟩
  · simp [hostStep, hostReadReg, State.reply, State.regValue]
  · simpa [hn] using hostStep_busy_cases hb h
  · simpa [hn] using hostStep_busy_cases hb h
  · simpa using hostStep_busy_cases hb h
  · simpa using hostStep_busy_cases hb h
  · simpa using hostStep_busy_cases hb h

/-- Settles O38: completion writes no memory, and it shows the container that ENC left in OUT. -/
theorem completionShowsDone : Obligations.CompletionShowsDone := by
  intro U s hinv hidle hp
  obtain ⟨bytes, hc, _, hread⟩ := hinv.encoded hp
  obtain ⟨_, hc', hdone, herr, hlen, hbytes⟩ := hinv.finish_shows hp
  obtain rfl := Option.some.inj (hc.symm.trans hc')
  refine ⟨s.finish, (machineStep_of_idle_host hidle).trans (ddcStep_complete hp), hinv.toNat_finish_outLen hp, rfl, herr, hdone, rfl,
    ⟨rfl, rfl, rfl, rfl, rfl, rfl⟩, keepsSym_of_eq rfl rfl rfl, fun _ => rfl, ⟨rfl, rfl, rfl⟩, fun a ha => ?_⟩
  rw [hlen] at ha
  rw [hread a ha, hbytes a ha]

end Sys2Proof.Machine
end

section
/-! A request from START to its end is the function RUN (R221 to R226). -/

namespace Sys2Proof.Machine

/-! What `RUN` answers on the inputs that a state holds. -/

/-- `RUN` reads the configuration, the tie rule and the symbols below `N`. -/
theorem runResult_congr (U : Config.ToneUnit) {s t : State} (hconfig : keepsConfig s t) (htie : t.params.roundTie = s.params.roundTie)
    (hsym : ∀ a, a < s.symbolCount → t.symAt a = s.symAt a) : t.runResult U = s.runResult U := by
  obtain ⟨_, _, _, hcount, _, hcfg, _⟩ := request_congr hconfig htie
  have hsymbols : t.symbols s.symbolCount = s.symbols s.symbolCount := List.map_congr_left fun a ha => hsym a (List.mem_range.mp ha)
  rw [State.runResult, State.runResult, htie, hcfg, hcount, hsymbols]

/-- The model's format check is that of `RUN` (R181). -/
theorem formatOk_iff (s : State) : s.formatOk = true ↔ 1 ≤ s.config.rate ∧ s.config.ch = 1 ∧ s.config.bits = 16 := by
  simp [State.formatOk, State.config, ← BitVec.toNat_inj, and_assoc]

theorem runResult_of_bad_format (U : Config.ToneUnit) {s : State} (hf : s.formatOk = false) : s.runResult U = .error .invalidFormat :=
  if_pos (by simp [← formatOk_iff, hf])

theorem runResult_of_bad_symbol (U : Config.ToneUnit) {s : State} (hf : s.formatOk = true) (hv : s.allValid = false) :
    s.runResult U = .error .invalidSymbol := by
  have hbad : ¬ (s.symbols s.symbolCount).all validCode = true := by simpa [State.allValid] using hv
  rw [State.runResult, run, if_neg (not_not.mpr ((formatOk_iff s).mp hf)), if_pos hbad]

/-- What the checks of a request have established by the time it generates samples: they ask its inputs only. -/
structure State.Passed (s : State) : Prop where
  format : s.formatOk = true
  symbols : s.allValid = true
  fits : containerLength s.sampleCount ≤ 2 ^ 32 - 1

theorem passed_of_launchPremises {s : State} (h : launchPremises s) (hf : s.formatOk = true) (hv : s.allValid = true) : s.Passed := by
  obtain ⟨_, _, hfits⟩ := h
  exact ⟨hf, hv, hfits hf⟩

theorem State.Passed.length_linkAfter {s : State} (h : s.Passed) : (s.linkAfter s.symbolCount).length = s.sampleCount :=
  Machine.length_linkAfter ((allValid_iff s).mp h.symbols)

/-- Past the checks `RUN` answers the container of all the symbols' blocks. -/
theorem State.Passed.runResult {s : State} (h : s.Passed) (U : Config.ToneUnit) :
    ∃ bytes, container U s.params.roundTie s.fs s.channels.toNat s.bits.toNat (s.linkAfter s.symbolCount) = some bytes ∧
      s.runResult U = .ok bytes := by
  have hnumbers : Sample.nan ∉ s.linkAfter s.symbolCount := nan_not_mem_sequenceOf _ _ _
  refine ⟨_, by rw [container, dataSection_of_numbers hnumbers, Option.map_some], ?_⟩
  have hvalid : (s.symbols s.symbolCount).all validCode = true := h.symbols
  rw [State.runResult, run, if_neg (not_not.mpr ((formatOk_iff s).mp h.format)), if_neg (not_not.mpr hvalid)]
  rfl

/-! The end of a request. -/

theorem keepsConfig_trans {s t u : State} (h₁ : keepsConfig s t) (h₂ : keepsConfig t u) : keepsConfig s u := by
  simp_all [keepsConfig]

theorem keepsSym_trans {s t u : State} (h₁ : keepsSym s t) (h₂ : keepsSym t u) : keepsSym s u := by
  simp_all [keepsSym]

/-- `t` is the end of the request that `s` is in: with the host idle it shows what `RUN` answers on the inputs of `s`, and has kept them. -/
structure RequestEnd (U : Config.ToneUnit) (s t : State) : Prop where
  idle : t.pending = []
  shown : t.shows (s.runResult U)
  config : keepsConfig s t
  sym : keepsSym s t
  linkEmpty : t.link = []
  reserved : reservedField t.status = reservedField s.status

/-- The machine's `k`-th state from `s` is the end of its request. -/
def EndsIn (U : Config.ToneUnit) (k : Nat) (s : State) : Prop := ∃ t : State, (coreWith U).run k s = .next t ∧ RequestEnd U s t

theorem ended_of_shows {t : State} {r : RunResult} (h : t.shows r) : t.runState = .done ∨ t.runState = .error := by
  cases r with
  | ok bytes =>
    obtain ⟨hdone, _⟩ := h
    exact .inl hdone
  | error e =>
    obtain ⟨herror, _⟩ := h
    exact .inr herror

theorem ddcStep_keeps_reserved {U : Config.ToneUnit} {s t : State} (h : ddcStep U s = .next t) :
    reservedField t.status = reservedField s.status := by
  rcases ddcStep_cases h with ⟨_, rfl⟩ | ⟨_, _, rfl⟩ | ⟨_, _, rfl⟩ | ⟨_, _, rfl⟩ | ⟨_, _, rfl⟩ | ⟨_, _, _, _, _, _, rfl⟩ |
    ⟨_, _, _, rfl⟩ | ⟨_, _, rfl⟩ | ⟨_, _, _, _, rfl⟩ | ⟨_, rfl⟩ <;> simp

theorem run_succ_of_step {U : Config.ToneUnit} {s t : State} (h : machineStep U s = .next t) (k : Nat) :
    (coreWith U).run (k + 1) s = (coreWith U).run k t := by
  have hstep : (coreWith U).step s = .next t := h
  simp only [Host.Core.run, hstep]

/-- A machine at rest with an idle host stays as it is. -/
theorem run_of_rest {U : Config.ToneUnit} {t : State} (hidle : t.pending = []) (hp : t.phase = .rest) (k : Nat) :
    (coreWith U).run k t = .next t := by
  induction k with
  | zero => rfl
  | succ k ih => exact (run_succ_of_ddc hidle (ddcStep_rest hp) k).trans ih

theorem EndsIn.of_rest {U : Config.ToneUnit} {t : State} (hidle : t.pending = []) (hp : t.phase = .rest) (hlink : t.link = [])
    (hshows : t.shows (t.runResult U)) (k : Nat) : EndsIn U k t :=
  ⟨t, run_of_rest hidle hp k, hidle, hshows, ⟨rfl, rfl, rfl, rfl, rfl, rfl⟩, keepsSym_of_eq rfl rfl rfl, hlink, rfl⟩

/-- A step of DDC leaves the end of the request to come as it is, since it keeps the inputs. -/
theorem EndsIn.step {U : Config.ToneUnit} {s s' : State} {k : Nat} (h : EndsIn U k s') (hidle : s.pending = [])
    (hstep : ddcStep U s = .next s') : EndsIn U (k + 1) s := by
  obtain ⟨t, hrun, hend⟩ := h
  obtain ⟨hconfig, hsym, _, _⟩ := blockNeverWritesItsInputs U s s' hstep
  have hresult : s'.runResult U = s.runResult U := by
    obtain ⟨_, hsymAt, _, hparams⟩ := hsym
    exact runResult_congr U hconfig (by rw [hparams]) fun a _ => hsymAt a
  exact ⟨t, (run_succ_of_ddc hidle hstep k).trans hrun,
    { hend with
      shown := hresult ▸ hend.shown
      config := keepsConfig_trans hconfig hend.config
      sym := keepsSym_trans hsym hend.sym
      reserved := hend.reserved.trans (ddcStep_keeps_reserved hstep) }⟩

/-- An error that `RUN` answers and DDC raises ends the request. -/
theorem EndsIn.of_raiseError {U : Config.ToneUnit} {s : State} {e : ErrorKind} (hidle : s.pending = [])
    (hstep : ddcStep U s = .next (s.raiseError e)) (hresult : s.runResult U = .error e) (k : Nat) : EndsIn U (k + 1) s := by
  have hshows : (s.raiseError e).shows ((s.raiseError e).runResult U) := by
    rw [show (s.raiseError e).runResult U = .error e from hresult]
    simp [State.shows]
  exact (EndsIn.of_rest (t := s.raiseError e) hidle rfl rfl hshows k).step hidle hstep

/-! The steps of a request, from the last to the first. -/

section Steps

variable {U : Config.ToneUnit} {s : State}

theorem endsIn_of_complete (hidle : s.pending = []) (hp : s.phase = .complete) (h : s.Passed) (hlink : s.link = s.linkAfter s.symbolCount)
    (hout : ∀ bytes, container U s.params.roundTie s.fs s.channels.toNat s.bits.toNat s.link = some bytes →
      ∀ a (ha : a < bytes.length), s.out.read a = some bytes[a]) (k : Nat) : EndsIn U (k + 1) s := by
  obtain ⟨bytes, hc, hresult⟩ := h.runResult U
  rw [← hlink] at hc
  obtain ⟨_, _, _, hlen⟩ := container_some hc
  have houtLen : s.finish.outLen.toNat = bytes.length := by
    have hfits := h.fits
    rw [← h.length_linkAfter, ← hlink] at hfits
    rw [State.finish_outLen, BitVec.toNat_ofNat, Nat.mod_eq_of_lt (by omega), hlen, containerLength]
  have hshows : s.finish.shows (s.finish.runResult U) := by
    rw [show s.finish.runResult U = .ok bytes from hresult]
    refine ⟨State.runState_finish s, by simp, houtLen, fun a ha => ?_⟩
    rw [State.outSeenByHost, if_pos ⟨State.runState_finish s, houtLen ▸ ha⟩, State.finish_out, hout bytes hc a ha, Option.getD_some]
  exact (EndsIn.of_rest (t := s.finish) hidle rfl rfl hshows k).step hidle (ddcStep_complete hp)

theorem endsIn_of_encode (hidle : s.pending = []) (hp : s.phase = .encode) (h : s.Passed) (hlink : s.link = s.linkAfter s.symbolCount)
    (k : Nat) : EndsIn U (k + 2) s := by
  obtain ⟨bytes, hc, _⟩ := h.runResult U
  rw [← hlink] at hc
  have hfits : containerLength s.link.length ≤ 2 ^ 32 - 1 := by rw [hlink, h.length_linkAfter]; exact h.fits
  refine EndsIn.step (endsIn_of_complete (s := s.writeContainer bytes) hidle rfl { h with } hlink (fun bytes' hc' a ha => ?_) k) hidle
    (ddcStep_encode hp hfits hc)
  obtain rfl := Option.some.inj (hc.symm.trans hc')
  simpa using Memory.read_writeList s.out 0 bytes a ha

/-- The generation pass, with `n` symbols still to play. -/
theorem endsIn_of_generate (hidle : s.pending = []) (hp : s.phase = .generate) (h : s.Passed) (hlink : s.link = s.linkAfter s.pc) {n : Nat}
    (hn : s.pc + n = s.symbolCount) (k : Nat) : EndsIn U (k + n + 3) s := by
  induction n generalizing s with
  | zero =>
    have hlink' : s.link = s.linkAfter s.symbolCount := hn ▸ hlink
    exact (endsIn_of_encode (s := s.beginEncode) hidle rfl { h with } hlink' k).step hidle (ddcStep_generated hp (by omega))
  | succ n ih =>
    obtain ⟨i, r, hi, hr⟩ := decodeSym_of_valid ((allValid_iff s).mp h.symbols s.pc (by omega))
    have hlink' : (s.playRow r).link = s.linkAfter (s.pc + 1) := by
      rw [linkAfter_succ, symbolBlock_of_decode hi hr, ← hlink, State.playRow_link, romRow_eq]
    have hn' : s.pc + 1 + n = s.symbolCount := by omega
    exact (ih (s := s.playRow r) hidle hp { h with } hlink' hn').step hidle (ddcStep_play hp (by omega) hi hr)

theorem endsIn_of_validate (hidle : s.pending = []) (hp : s.phase = .validate) (hlink : s.link = []) (hprem : launchPremises s)
    (hf : s.formatOk = true) (k : Nat) : EndsIn U (k + s.symbolCount + 4) s := by
  have hstep := ddcStep_validate (U := U) hp
  cases hv : s.allValid with
  | false => exact .of_raiseError hidle (by simpa [hv] using hstep) (runResult_of_bad_symbol U hf hv) _
  | true =>
    have hpassed : s.beginGenerate.Passed := { passed_of_launchPremises hprem hf hv with }
    have hlink' : s.beginGenerate.link = s.beginGenerate.linkAfter 0 := by simp [hlink]
    exact (endsIn_of_generate (s := s.beginGenerate) hidle rfl hpassed hlink' (Nat.zero_add _) k).step hidle (by simpa [hv] using hstep)

theorem endsIn_of_check (hidle : s.pending = []) (hp : s.phase = .check) (hlink : s.link = []) (hprem : launchPremises s) (k : Nat) :
    EndsIn U (k + s.symbolCount + 5) s := by
  have hstep := ddcStep_check (U := U) hp
  cases hf : s.formatOk with
  | false => exact .of_raiseError hidle (by simpa [hf] using hstep) (runResult_of_bad_format U hf) _
  | true => exact (endsIn_of_validate (s := s.beginValidate) hidle rfl hlink hprem hf k).step hidle (by simpa [hf] using hstep)

end Steps

/-- Settles O41: the invariant gives each phase of a request what the steps from it on need. -/
theorem everyRequestEnds : Obligations.EveryRequestEnds := by
  intro U s hinv hidle hbusy
  suffices h : EndsIn U (s.symbolCount + 5) s by
    obtain ⟨t, hrun, hend⟩ := h
    exact ⟨_, t, le_rfl, hrun, ended_of_shows hend.shown⟩
  have hprem : launchPremises s := (launchRefusal_eq_none_iff s).mp (hinv.premises hbusy)
  have hpassed (hp : s.phase = .generate ∨ s.phase = .encode ∨ s.phase = .complete) : s.Passed :=
    passed_of_launchPremises hprem (hinv.formatPassed (.inr hp)) (hinv.symbolsPassed hp)
  cases hp : s.phase with
  | rest => simp [hinv.phaseIff.mp hp] at hbusy
  | check => simpa using endsIn_of_check hidle hp (hinv.linkEmpty (by simp [hp])) hprem 0
  | validate =>
    have h := endsIn_of_validate (U := U) hidle hp (hinv.linkEmpty (by simp [hp])) hprem (hinv.formatPassed (by simp [hp])) 1
    rwa [show 1 + s.symbolCount + 4 = s.symbolCount + 5 by omega] at h
  | generate =>
    obtain ⟨hle, hlink, _⟩ := hinv.generating hp
    have h := endsIn_of_generate (U := U) hidle hp (hpassed (by simp [hp])) hlink (Nat.add_sub_cancel' hle) (s.pc + 2)
    rwa [show s.pc + 2 + (s.symbolCount - s.pc) + 3 = s.symbolCount + 5 by omega] at h
  | encode =>
    obtain ⟨_, hlink⟩ := hinv.generated (by simp [hp])
    exact endsIn_of_encode hidle hp (hpassed (by simp [hp])) hlink (s.symbolCount + 3)
  | complete =>
    obtain ⟨_, hlink⟩ := hinv.generated (by simp [hp])
    obtain ⟨bytes, hc, _, hread⟩ := hinv.encoded hp
    refine endsIn_of_complete hidle hp (hpassed (by simp [hp])) hlink (fun bytes' hc' => ?_) (s.symbolCount + 4)
    obtain rfl := Option.some.inj (hc.symm.trans hc')
    exact hread

/-! The request that the host starts. -/

section Request

variable {s : State} {v : Word} (hpend : s.pending = [.writeReg 0 v]) (hv : isStartWord v) (hb : s.busy = false) (hprem : launchPremises s)
include hpend hv hb hprem

theorem machineStep_of_start (U : Config.ToneUnit) : machineStep U s = .next (s.setPending []).launch :=
  calc machineStep U s = hostStep U (.writeReg 0 v) (s.setPending []) := machineStep_of_action hpend (by simp)
    _ = execStart (s.setPending []) := hostStep_of_command U (decodeCmd_eq_start_iff.mpr hv) _
    _ = .next (s.setPending []).launch := execStart_launch hb ((launchRefusal_eq_none_iff s).mpr hprem)

/-- START and the `N + 5` steps after it lead to the end of the request: `launch` keeps the inputs too. -/
theorem endsIn_of_start (U : Config.ToneUnit) : EndsIn U (s.symbolCount + 6) s := by
  have hlaunched : EndsIn U (0 + s.symbolCount + 5) (s.setPending []).launch :=
    endsIn_of_check (s := (s.setPending []).launch) rfl rfl rfl hprem 0
  rw [Nat.zero_add] at hlaunched
  obtain ⟨t, hrun, hend⟩ := hlaunched
  exact ⟨t, (run_succ_of_step (machineStep_of_start hpend hv hb hprem U) _).trans hrun,
    { hend with reserved := hend.reserved.trans (by simp) }⟩

end Request

/-- Settles O42: what `EndsIn` says of the state reached. -/
theorem requestEndsAsRunSays : Obligations.RequestEndsAsRunSays := by
  intro U s v hpend hv hb hprem
  obtain ⟨t, hrun, hend⟩ := endsIn_of_start hpend hv hb hprem U
  exact ⟨_, t, hrun, hend.idle, hend.shown, hend.config, hend.sym, hend.linkEmpty⟩

/-- Settles O36: the format check is the first step after START, and it asks nothing of SYM. -/
theorem invalidFormatComesFirst : Obligations.InvalidFormatComesFirst := by
  intro s v hpend hv hb hprem hf
  have hcheck : ddcStep Config.toneUnit (s.setPending []).launch = .next ((s.setPending []).launch.raiseError .invalidFormat) := by
    have hf' : (s.setPending []).launch.formatOk = false := hf
    rw [ddcStep_check rfl, hf', if_neg Bool.false_ne_true]
  have hrun : core.run 2 s = .next ((s.setPending []).launch.raiseError .invalidFormat) :=
    (run_succ_of_step (machineStep_of_start hpend hv hb hprem Config.toneUnit) 1).trans (run_succ_of_ddc rfl hcheck 0)
  exact ⟨(s.setPending []).launch.raiseError .invalidFormat, hrun, State.runState_raiseError _ _, by simp [errorCode], rfl, rfl⟩

/-! Two states that show the same result. -/

theorem stateField_eq_runStateCode (w : Word) : stateField w = runStateCode (runStateOf w) := by
  unfold runStateOf
  generalize stateField w = x
  revert x
  decide

/-- A result fixes all that the host sees: STATUS up to its reserved bits, `OUT_LEN`, and the bytes of OUT below it. -/
theorem shows_unique {s t : State} {r : RunResult} (hs : s.shows r) (ht : t.shows r) (hres : reservedField t.status = reservedField s.status) :
    t.status = s.status ∧ t.outLen = s.outLen ∧ ∀ a, a < s.outLen.toNat → t.outSeenByHost a = s.outSeenByHost a := by
  have hstatus (hstate : t.runState = s.runState) (herr : errField t.status = errField s.status) : t.status = s.status := by
    refine status_ext ?_ herr hres
    rw [stateField_eq_runStateCode, stateField_eq_runStateCode]
    exact congrArg runStateCode hstate
  cases r with
  | ok bytes =>
    obtain ⟨hdone, herr, hlen, hbytes⟩ := hs
    obtain ⟨hdone', herr', hlen', hbytes'⟩ := ht
    refine ⟨hstatus (hdone'.trans hdone.symm) (herr'.trans herr.symm), BitVec.eq_of_toNat_eq (hlen'.trans hlen.symm), fun a ha => ?_⟩
    rw [hlen] at ha
    rw [hbytes a ha, hbytes' a ha]
  | error e =>
    obtain ⟨herror, herr, hlen⟩ := hs
    obtain ⟨herror', herr', hlen'⟩ := ht
    refine ⟨hstatus (herror'.trans herror.symm) (herr'.trans herr.symm), hlen'.trans hlen.symm, fun a ha => ?_⟩
    simp [hlen] at ha

/-- Settles O44: both requests end after `N + 6` steps, and `RUN` answers the same on equal inputs. -/
theorem equalInputsGiveEqualContainers : Obligations.EqualInputsGiveEqualContainers := by
  intro U s t v w hsInv htInv hsPend htPend hv hw hsb htb hsPrem htPrem htie hconfig hsym
  obtain ⟨s', hsRun, hsEnd⟩ := endsIn_of_start hsPend hv hsb hsPrem U
  obtain ⟨t', htRun, htEnd⟩ := endsIn_of_start htPend hw htb htPrem U
  obtain ⟨_, _, _, hcount, _⟩ := request_congr hconfig htie
  rw [hcount] at htRun
  have htShown : t'.shows (s.runResult U) := runResult_congr U hconfig htie hsym ▸ htEnd.shown
  have hres : reservedField t'.status = reservedField s'.status := by
    rw [hsEnd.reserved, htEnd.reserved, hsInv.reserved, htInv.reserved]
  have hfree : s'.busy = false := by
    refine (State.busy_eq_false_iff s').mpr ?_
    rcases ended_of_shows hsEnd.shown with h | h <;> simp [h]
  exact ⟨_, s', t', hsRun, htRun, hsEnd.idle, htEnd.idle, hfree, shows_unique hsEnd.shown htShown hres⟩

/-! The container of a symbol sequence (R229). -/

section Container

variable {U : Config.ToneUnit} {t : State} {tie : RoundTie} {fs ch bits : Nat} {xs : List Sample} {bytes : List Byte}
  (hc : container U tie fs ch bits xs = some bytes) (ht : t.shows (.ok bytes))
include hc ht

theorem container_header_seen {a : Nat} (ha : a < 44) : (header fs ch bits xs.length)[a]? = some (t.outSeenByHost a) := by
  obtain ⟨_, _, _, hlen⟩ := container_some hc
  obtain ⟨_, _, _, hbytes⟩ := ht
  rw [← container_getElem?_header hc ha, hbytes a (by omega), List.getElem?_eq_getElem]

/-- The two bytes that the host sees of sample `i` are those of its code. -/
theorem container_frame_seen {i : Nat} {x : Sample} (hx : xs[i]? = some x) :
    ∃ q, quantize U tie x = some q ∧ i16le q = [t.outSeenByHost (44 + 2 * i), t.outSeenByHost (44 + 2 * i + 1)] := by
  obtain ⟨hi, rfl⟩ := List.getElem?_eq_some_iff.mp hx
  obtain ⟨_, _, _, hlen⟩ := container_some hc
  obtain ⟨_, _, _, hbytes⟩ := ht
  obtain ⟨q, hq, hframe⟩ := container_frame hc hi
  refine ⟨q, hq, ?_⟩
  rw [← hframe, hbytes (44 + 2 * i) (by omega), hbytes (44 + 2 * i + 1) (by omega), List.drop_eq_getElem_cons (by omega),
    List.drop_eq_getElem_cons (by omega)]
  rfl

/-- A sample reads back as its code. -/
theorem container_sample_seen {i : Nat} {x : Sample} (hx : xs[i]? = some x) : quantize U tie x = some (t.outSample (44 + 2 * i)) := by
  obtain ⟨q, hq, hseen⟩ := container_frame_seen hc ht hx
  obtain ⟨hlow, hhigh⟩ := quantize_range hq
  have hfield : fieldI16 (i16le q) 0 = t.outSample (44 + 2 * i) := by
    rw [hseen]
    rfl
  rw [hq, ← hfield, fieldI16_i16le hlow hhigh]

/-- A gap sample is two zero bytes. -/
theorem container_gap_seen {i : Nat} (hx : xs[i]? = some (.num 0)) :
    t.outSeenByHost (44 + 2 * i) = 0 ∧ t.outSeenByHost (45 + 2 * i) = 0 := by
  obtain ⟨q, hq, hseen⟩ := container_frame_seen hc ht hx
  have hzero : q = 0 := by simpa [quantize, quantizeNum_zero] using hq.symm
  rw [hzero, show 44 + 2 * i + 1 = 45 + 2 * i by omega] at hseen
  obtain ⟨hlow, hhigh⟩ : 0 = t.outSeenByHost (44 + 2 * i) ∧ 0 = t.outSeenByHost (45 + 2 * i) := by simpa [i16le, u16le] using hseen
  exact ⟨hlow.symm, hhigh.symm⟩

end Container

/-- Settles O43: `RUN` answers the container of the symbols' blocks, in which sample `r` of symbol `p` has index `p × B + r`. -/
theorem doneContainerHoldsEverySymbol : Obligations.DoneContainerHoldsEverySymbol := by
  intro U s v hpend hv hb hprem hf hvalid
  obtain ⟨t, hrun, hend⟩ := endsIn_of_start hpend hv hb hprem U
  have hpassed := passed_of_launchPremises hprem hf hvalid
  obtain ⟨bytes, hc, hresult⟩ := hpassed.runResult U
  have hshows : t.shows (.ok bytes) := hresult ▸ hend.shown
  obtain ⟨_, _, _, hlen⟩ := container_some hc
  have ⟨hdone, _, houtLen, _⟩ := hshows
  obtain ⟨_, hch, hbits⟩ := format_of_formatOk hf
  refine ⟨_, t, hrun, hend.idle, hdone, ?_, fun a ha => ?_, fun p hp => ?_⟩
  · rw [houtLen, hlen, hpassed.length_linkAfter]
    rfl
  · have hheader := container_header_seen hc hshows ha
    rw [hch, hbits, hpassed.length_linkAfter] at hheader
    exact hheader
  · obtain ⟨i, k, hi, hk⟩ := decodeSym_of_valid ((allValid_iff s).mp hvalid p hp)
    have hsample {r : Nat} (hr : r < s.nsig + s.nsil) :
        (s.linkAfter s.symbolCount)[p * (s.nsig + s.nsil) + r]? = (block romTable[k] s.fs s.nsig s.nsil)[r]? :=
      (linkAfter_getElem? ((allValid_iff s).mp hvalid) hp hr).trans (by rw [symbolBlock_of_decode hi hk])
    refine ⟨romTable[k], by simp [tonePair, hi, hk], fun r hr => ?_, fun r hgap hr => ?_⟩
    · have hcode := container_sample_seen hc hshows ((hsample (by omega)).trans (block_tone _ _ _ _ _ hr))
      rw [quantize_tone] at hcode
      exact (Option.some.inj hcode).symm
    · exact container_gap_seen hc hshows ((hsample hr).trans (block_gap _ _ _ _ _ hgap hr))

end Sys2Proof.Machine
end

section
/-! The format check, and an error until the next START or reset (R181, R242, R245, R246). -/

namespace Sys2Proof.Machine

/-- The format check in the registers it reads (R181). -/
theorem formatOk_iff_registers (s : State) : s.formatOk = true ↔ 1 ≤ s.sampleRate.toInt ∧ s.channels = 1 ∧ s.bits = 16 := by
  simp [State.formatOk, and_assoc]

/-- The format check fails exactly on the three causes of R242. -/
theorem formatOk_eq_false_iff (s : State) : s.formatOk = false ↔ s.sampleRate.toInt ≤ 0 ∨ s.channels ≠ 1 ∨ s.bits ≠ 16 := by
  rw [← Bool.not_eq_true, formatOk_iff_registers, not_and_or, not_and_or]
  exact or_congr_left (by omega)

/-- Settles O34: the check fails exactly on the causes of R242, and the error it raises leaves its report and nothing else. -/
theorem formatCheckDecides : Obligations.FormatCheckDecides := by
  intro s hidle hp
  rw [step_of_idle_host hidle, ddcStep_check hp]
  refine ⟨fun hbad => ?_, fun hrate hch hbits => ?_⟩
  · have hfails : s.formatOk = false := (formatOk_eq_false_iff s).mpr hbad
    exact ⟨s.raiseError .invalidFormat, by simp [hfails], endsInError_raiseError s .invalidFormat⟩
  · rw [if_pos ((formatOk_iff_registers s).mpr ⟨hrate, hch, hbits⟩)]
    rfl

/-- Settles O46: `endsInError_raiseError` for each of the two error codes. -/
theorem raisingAnErrorLeavesOnlyItsReport : Obligations.RaisingAnErrorLeavesOnlyItsReport :=
  fun s => ⟨endsInError_raiseError s .invalidSymbol, endsInError_raiseError s .invalidFormat⟩

/-- Outside BUSY a step that takes neither START nor reset off the host's list leaves STATUS and `OUT_LEN` as they are. -/
theorem State.Inv.status_outLen_of_not_busy {U : Config.ToneUnit} {s t : State} (h : s.Inv U) (hb : s.busy = false)
    (hquiet : ∀ a rest, s.pending = a :: rest → ¬ startsOrResets a) (hstep : machineStep U s = .next t) :
    t.status = s.status ∧ t.outLen = s.outLen := by
  rcases statusChangesOnlyWhereTheRulesSay U s t h hstep with hkeep | ⟨v, rest, hpend, hv, _⟩ | ⟨hbusy, _⟩ | ⟨hbusy, _⟩ | ⟨hbusy, _⟩ |
    ⟨rest, hpend, _⟩
  · exact hkeep
  · exact absurd ⟨rfl, hv⟩ (hquiet _ _ hpend)
  · simp [hb] at hbusy
  · simp [hb] at hbusy
  · simp [hb] at hbusy
  · exact absurd trivial (hquiet _ _ hpend)

/-- Settles O47: in ERROR no request runs, so STATUS and `OUT_LEN` stay, and the invariant says that `OUT_LEN` is 0. -/
theorem errorPersistsUntilStartOrReset : Obligations.ErrorPersistsUntilStartOrReset := by
  intro U s t h herror hquiet hstep
  have hb : s.busy = false := by simp [State.busy, herror]
  obtain ⟨hstatus, hlen⟩ := h.status_outLen_of_not_busy hb hquiet hstep
  exact ⟨(State.runState_congr hstatus).trans herror, congrArg errField hstatus, hlen.trans (h.lengthZero (.inr herror))⟩

end Sys2Proof.Machine
end

section
/-! The refusal of START, the block at rest, and a container until the next START or reset (R271, R276, R282). -/

namespace Sys2Proof.Machine

/-- Settles O32: on the premises START is `launch`, outside them it is refused. -/
theorem startIsRefusedExactlyOutsidePremises : Obligations.StartIsRefusedExactlyOutsidePremises := by
  intro s hb
  by_cases hprem : launchPremises s
  · have hexec : exec .start s = .next s.launch := execStart_launch hb ((launchRefusal_eq_none_iff s).mpr hprem)
    simp [hexec, hprem]
  · obtain ⟨r, hexec⟩ := exec_start_refused hb hprem
    simp [hexec, hprem]

section Rest

variable {U : Config.ToneUnit} {s t : State}

/-- Outside BUSY a step of DDC changes nothing (R271). -/
theorem State.Inv.ddcStep_of_not_busy (h : s.Inv U) (hb : s.busy = false) : ddcStep U s = .next s :=
  ddcStep_rest (h.phaseIff.mpr hb)

/-- Outside BUSY a host action other than START and reset keeps OUT, and the run whose unspecified bytes the host sees there. -/
theorem State.Inv.hostStep_keeps_out (h : s.Inv U) (hb : s.busy = false) {a : HostAction} (hquiet : ¬ startsOrResets a)
    (hstep : hostStep U a s = .next t) : t.out = s.out ∧ t.runCount = s.runCount := by
  rcases hostStep_cases hstep with ⟨v, rfl, hv, _⟩ | ⟨_, _, _, rfl⟩ | ⟨n, v, _, _, _, _, _, rfl⟩ | ⟨_, _, _, _, rfl⟩ |
    ⟨_, _, _, _, _, rfl⟩ | ⟨_, _, _, _, rfl⟩ | ⟨_, _, _, rfl⟩ | ⟨rfl, _⟩ | ⟨_, hddc⟩ | ⟨_, rfl⟩
  · exact absurd ⟨rfl, isStartWord_of_getLsbD hv⟩ hquiet
  · exact ⟨rfl, rfl⟩
  · exact ⟨s.setReg_out n v, s.setReg_runCount n v⟩
  · exact ⟨rfl, rfl⟩
  · exact ⟨rfl, rfl⟩
  · exact ⟨rfl, rfl⟩
  · exact ⟨rfl, rfl⟩
  · exact absurd trivial hquiet
  · rw [h.ddcStep_of_not_busy hb] at hddc
    cases hddc
    exact ⟨rfl, rfl⟩
  · exact ⟨rfl, rfl⟩

/-- Outside BUSY a step that takes neither START nor reset off the host's list keeps OUT, and the run whose unspecified bytes
the host sees there. -/
theorem State.Inv.machineStep_keeps_out (h : s.Inv U) (hb : s.busy = false)
    (hquiet : ∀ a rest, s.pending = a :: rest → ¬ startsOrResets a) (hstep : machineStep U s = .next t) :
    t.out = s.out ∧ t.runCount = s.runCount := by
  rcases machineStep_cases hstep with ⟨_, hddc⟩ | ⟨a, rest, hpend, _, hhost⟩
  · rw [h.ddcStep_of_not_busy hb] at hddc
    cases hddc
    exact ⟨rfl, rfl⟩
  · exact (h.setPending rest).hostStep_keeps_out hb (hquiet a rest hpend) hhost

/-- What the host reads of OUT depends on STATUS, `OUT_LEN`, OUT and the run it belongs to (R36, R281). -/
theorem outSeenByHost_congr (hstatus : t.status = s.status) (hlen : t.outLen = s.outLen) (hout : t.out = s.out)
    (hrun : t.runCount = s.runCount) (a : Nat) : t.outSeenByHost a = s.outSeenByHost a := by
  simp only [State.outSeenByHost, State.runState_congr hstatus, hlen, hout, hrun]

end Rest

/-- Settles O48: in DONE no request runs, so all that the host's view of OUT depends on stays. -/
theorem containerPersistsUntilStartOrReset : Obligations.ContainerPersistsUntilStartOrReset := by
  intro U s t h hdone hquiet hstep
  have hb : s.busy = false := by simp [State.busy, hdone]
  obtain ⟨hstatus, hlen⟩ := h.status_outLen_of_not_busy hb hquiet hstep
  obtain ⟨hout, hrun⟩ := h.machineStep_keeps_out hb hquiet hstep
  exact ⟨(State.runState_congr hstatus).trans hdone, hlen, outSeenByHost_congr hstatus hlen hout hrun⟩

/-- Settles O11: with the host idle the step is DDC's, which does nothing outside BUSY. -/
theorem nothingHappensWithoutStart : Obligations.NothingHappensWithoutStart :=
  fun _ _ h hidle hb => (machineStep_of_idle_host hidle).trans (h.ddcStep_of_not_busy hb)

end Sys2Proof.Machine
end
